-- ==== Sys2Proof/Word.lean ====
section
/-! DEFINITION. The byte and the four control bytes of the wire format. -/

namespace Sys2Proof

/-- An 8-bit unsigned value: the block has no wider data item (00_scope.md R7). -/
abbrev Byte := BitVec 8

/-- The frame delimiter END (30_encoding.md R70). -/
abbrev END : Byte := 0xC0#8

/-- The escape byte ESC (30_encoding.md R70). -/
abbrev ESC : Byte := 0xDB#8

/-- ESC_END, the second byte of the pair that stands for END (30_encoding.md R70). -/
abbrev ESC_END : Byte := 0xDC#8

/-- ESC_ESC, the second byte of the pair that stands for ESC (30_encoding.md R70). -/
abbrev ESC_ESC : Byte := 0xDD#8

end Sys2Proof
end

