-- ==== Sys2Proof/Config.lean ====
section
/-! DEFINITION. What one implementation of the block fixes: MAXPKT. -/

namespace Sys2Proof

/-- MAXPKT, "max-packet-size", a natural the spec gives no value (00_scope.md R5; 92_eei_decisions.md D4).
It has no body, so nothing can rest on a value of it. `State.maxpkt` carries it (DESIGN CHOICE, log 3). -/
opaque Config.maxpkt : Nat

end Sys2Proof
end

