-- ==== Sys2Proof/Syntax.lean ====
section
/-! DEFINITION. The events and the instructions: one constructor of `Instr` per row of the opcode table. -/

namespace Sys2Proof

/-- The receive state machine (10_state.md R24). -/
inductive RxPhase where
  /-- waiting for the first byte of a new frame -/
  | start
  /-- inside a frame, no escape pending -/
  | body
  /-- inside a frame, the previous byte was ESC -/
  | escaped
  /-- a completed frame is presented to the host -/
  | handoff
  /-- the encoder is sending a reply from `rx_buf` -/
  | reply
  /-- the receive port reported a fatal error -/
  | failed
deriving DecidableEq, Repr

/-- The encoder state machine (10_state.md R26). -/
inductive EncPhase where
  /-- no frame being encoded -/
  | idle
  /-- the next byte out is the leading END -/
  | lead
  /-- the next byte out encodes source byte `enc_idx`, or is the trailing END -/
  | data
  /-- the next byte out is `enc_code` -/
  | esc2
deriving DecidableEq, Repr

/-- The buffer the encoder reads, `enc_src` (10_state.md R27). -/
inductive EncSrc where
  /-- `tx_buf`, a frame the stack sends -/
  | txbuf
  /-- `rx_buf`, a reply in place -/
  | rxbuf
deriving DecidableEq, Repr

/-- The two addressable spaces (20_memory.md R50). -/
inductive Space where
  | rxbuf
  | txbuf
deriving DecidableEq, Repr

/-- The names of the nine host commands (30_encoding.md R80), as a fault records them (60_exceptions.md R181). -/
inductive CommandName where
  | ifup
  | ifdown
  | ack
  | txstart
  | wtx
  | rtx
  | wrx
  | rrx
  | status
deriving DecidableEq, Repr

/-- A host command as the host issues it: the 4-bit code and the operand fields (30_encoding.md R80, R81).
`n` and `i` are unbounded naturals. A field that is no operand of the code's row is not part of the command. -/
structure CommandWord where
  op : BitVec 4
  n  : Nat
  i  : Nat
  v  : Byte
deriving DecidableEq, Repr

/-- An event as its agent offers it (00_scope.md R9; 30_encoding.md R83, R84). -/
inductive Event where
  /-- a byte arrives on the receive port -/
  | rx (b : Byte)
  /-- the receive port reports a fatal error -/
  | rxErr
  /-- the transmit port takes one byte -/
  | emit
  /-- the host issues a command -/
  | command (w : CommandWord)
deriving DecidableEq, Repr

/-- What the receive-port environment has pending: a byte or a fatal error (60_exceptions.md R195). -/
inductive RxOffer where
  | byte (b : Byte)
  | error
deriving DecidableEq, Repr

/-- The event of a pending receive-port item. -/
def RxOffer.event : RxOffer → Event
  | .byte b => .rx b
  | .error => .rxErr

/-- The three agents (60_exceptions.md R195). -/
inductive Agent where
  | receivePort
  | transmitPort
  | host
deriving DecidableEq, Repr

/-- An event once it is classified: one constructor per row of the opcode table
(30_encoding.md R76, R79, R80, R82; 40_receive.md R111). -/
inductive Instr where
  | rxDiscard (b : Byte)
  | rxStartEnd
  | rxStartData (b : Byte)
  | rxEnd
  | rxEsc
  | rxData (b : Byte)
  | rxEscEnd
  | rxEscEsc
  | rxEscBad (b : Byte)
  | rxErr
  | txLead
  | txTrail
  | txEsc
  | txData
  | txCode
  | ifup
  | ifdown
  | ack (n : Nat)
  | txstart (n : Nat)
  | wtx (i : Nat) (v : Byte)
  | rtx (i : Nat)
  | wrx (i : Nat) (v : Byte)
  | rrx (i : Nat)
  | status
  | reserved0
  | reservedA
  | reservedB
  | reservedC
  | reservedD
  | reservedE
  | reservedF
deriving DecidableEq, Repr

end Sys2Proof
end

