-- ==== Sys2Proof/WellFormed.lean ====
section
/-! DEFINITION. Which instructions are well formed: the extra conditions of the receive classes. -/

namespace Sys2Proof

/-- The operand conditions of the opcode table's rows: the byte of a class that matches any byte is none of the
bytes an earlier row takes (30_encoding.md R76). The naturals of a host command are unbounded (R81), so no command is
ill formed. -/
def Instr.wf : Instr → Bool
  | .rxStartData b => b != END
  | .rxData b => b != END && b != ESC
  | .rxEscBad b => b != ESC_END && b != ESC_ESC
  | .rxDiscard _ | .rxStartEnd | .rxEnd | .rxEsc | .rxEscEnd | .rxEscEsc | .rxErr => true
  | .txLead | .txTrail | .txEsc | .txData | .txCode => true
  | .ifup | .ifdown | .ack _ | .txstart _ | .wtx _ _ | .rtx _ | .wrx _ _ | .rrx _ | .status => true
  | .reserved0 | .reservedA | .reservedB | .reservedC | .reservedD | .reservedE | .reservedF => true

end Sys2Proof
end

