-- ==== Sys2Proof/Decode.lean ====
section
/-! DEFINITION. The decoder: the class of an event, read from the event and the sequencing state; and the encoder. -/

namespace Sys2Proof

/-! ## What the decoder reads -/

/-- The state the classes of 30_encoding.md R76 and R79 are selected by. `src` is the source byte SRC(enc_idx)
(41_transmit.md R131). -/
structure DecodeContext where
  up       : Bool
  rxPhase  : RxPhase
  encPhase : EncPhase
  encIdx   : Nat
  encLen   : Nat
  src      : Byte
deriving DecidableEq, Repr

/-- Why an event has no class in this context: it is not enabled, and holds (60_exceptions.md R183). -/
inductive DecodeReject where
  /-- `RX b` or `RXERR` in HANDOFF, REPLY or FAILED (40_receive.md R100, R111) -/
  | rxNotReady
  /-- `EMIT` in IDLE (41_transmit.md R130) -/
  | encoderIdle
  /-- `EMIT` in DATA with `enc_idx > enc_len`: no row of R79, a state no run reaches (DESIGN CHOICE, log 9) -/
  | sourcePastEnd
deriving DecidableEq, Repr

/-- The phases that take bytes, `rx_ready` (10_state.md R31). -/
def RxPhase.ready : RxPhase → Bool
  | .start | .body | .escaped => true
  | .handoff | .reply | .failed => false

/-- The byte the encoder must escape: END or ESC (30_encoding.md R72). -/
def needsEscape (b : Byte) : Bool := b == END || b == ESC

/-! ## Decoding -/

/-- The class of a received byte, by the dispatch of 40_receive.md R100. -/
def decodeRx (c : DecodeContext) (b : Byte) : Except DecodeReject Instr :=
  if !c.rxPhase.ready then .error .rxNotReady
  else if !c.up then .ok (.rxDiscard b)
  else match c.rxPhase with
    | .start => if b == END then .ok .rxStartEnd else .ok (.rxStartData b)
    | .body => if b == END then .ok .rxEnd else if b == ESC then .ok .rxEsc else .ok (.rxData b)
    | .escaped =>
      if b == ESC_END then .ok .rxEscEnd else if b == ESC_ESC then .ok .rxEscEsc else .ok (.rxEscBad b)
    | .handoff | .reply | .failed => .error .rxNotReady

/-- A receive-port error is an event of its own (40_receive.md R111). -/
def decodeRxErr (c : DecodeContext) : Except DecodeReject Instr :=
  if c.rxPhase.ready then .ok .rxErr else .error .rxNotReady

/-- The class of an emission step, by the dispatch of 41_transmit.md R130. -/
def decodeEmit (c : DecodeContext) : Except DecodeReject Instr :=
  match c.encPhase with
  | .idle => .error .encoderIdle
  | .lead => .ok .txLead
  | .data =>
    if c.encIdx = c.encLen then .ok .txTrail
    else if c.encIdx < c.encLen then (if needsEscape c.src then .ok .txEsc else .ok .txData)
    else .error .sourcePastEnd
  | .esc2 => .ok .txCode

/-- The row of a command code (30_encoding.md R80); a reserved code is a row too, which refuses (R82). A field that is no
operand of the row is ignored (R81; DEDUCED, log 14). -/
def decodeCommand (w : CommandWord) : Instr :=
  match w.op with
  | 0x0#4 => .reserved0
  | 0x1#4 => .ifup
  | 0x2#4 => .ifdown
  | 0x3#4 => .ack w.n
  | 0x4#4 => .txstart w.n
  | 0x5#4 => .wtx w.i w.v
  | 0x6#4 => .rtx w.i
  | 0x7#4 => .wrx w.i w.v
  | 0x8#4 => .rrx w.i
  | 0x9#4 => .status
  | 0xA#4 => .reservedA
  | 0xB#4 => .reservedB
  | 0xC#4 => .reservedC
  | 0xD#4 => .reservedD
  | 0xE#4 => .reservedE
  | _ => .reservedF

/-- The decoder, total on every event in every context. -/
def decode (c : DecodeContext) : Event → Except DecodeReject Instr
  | .rx b => decodeRx c b
  | .rxErr => decodeRxErr c
  | .emit => decodeEmit c
  | .command w => .ok (decodeCommand w)

/-- The row condition of an instruction: the contexts in which the opcode table selects it, `up` and the phases of
30_encoding.md R76 and R79 and the extra conditions. A command's row depends on no state (R80). -/
def selects (c : DecodeContext) : Instr → Bool
  | .rxDiscard _ => !c.up && c.rxPhase.ready
  | .rxStartEnd => c.up && c.rxPhase == .start
  | .rxStartData b => c.up && c.rxPhase == .start && b != END
  | .rxEnd | .rxEsc => c.up && c.rxPhase == .body
  | .rxData b => c.up && c.rxPhase == .body && (b != END && b != ESC)
  | .rxEscEnd | .rxEscEsc => c.up && c.rxPhase == .escaped
  | .rxEscBad b => c.up && c.rxPhase == .escaped && (b != ESC_END && b != ESC_ESC)
  | .rxErr => c.rxPhase.ready
  | .txLead => c.encPhase == .lead
  | .txTrail => c.encPhase == .data && decide (c.encIdx = c.encLen)
  | .txEsc => c.encPhase == .data && decide (c.encIdx < c.encLen) && needsEscape c.src
  | .txData => c.encPhase == .data && decide (c.encIdx < c.encLen) && !needsEscape c.src
  | .txCode => c.encPhase == .esc2
  | .ifup | .ifdown | .ack _ | .txstart _ | .wtx _ _ | .rtx _ | .wrx _ _ | .rrx _ | .status => true
  | .reserved0 | .reservedA | .reservedB | .reservedC | .reservedD | .reservedE | .reservedF => true

/-! ## The opcode table's rows as data

The same map as rows of (UP, phases, match, mask, extra condition), first match wins: 30_encoding.md R76 and R79 as they
are printed. -/

/-- A row of 30_encoding.md R76. `excluded` lists the bytes of its extra condition. -/
structure RxRow where
  up       : Bool
  phases   : List RxPhase
  pattern  : Byte
  mask     : Byte
  excluded : List Byte
  make     : Byte → Instr

/-- Does the row take this byte? -/
def RxRow.takes (r : RxRow) (up : Bool) (p : RxPhase) (b : Byte) : Bool :=
  r.up == up && r.phases.contains p && (b &&& r.mask) == r.pattern && !r.excluded.contains b

/-- The nine rows of 30_encoding.md R76, in its order. -/
def rxRows : List RxRow :=
  [ ⟨false, [.start, .body, .escaped], 0x00#8, 0x00#8, [], .rxDiscard⟩,
    ⟨true, [.start], 0xC0#8, 0xFF#8, [], fun _ => .rxStartEnd⟩,
    ⟨true, [.start], 0x00#8, 0x00#8, [0xC0#8], .rxStartData⟩,
    ⟨true, [.body], 0xC0#8, 0xFF#8, [], fun _ => .rxEnd⟩,
    ⟨true, [.body], 0xDB#8, 0xFF#8, [], fun _ => .rxEsc⟩,
    ⟨true, [.body], 0x00#8, 0x00#8, [0xC0#8, 0xDB#8], .rxData⟩,
    ⟨true, [.escaped], 0xDC#8, 0xFF#8, [], fun _ => .rxEscEnd⟩,
    ⟨true, [.escaped], 0xDD#8, 0xFF#8, [], fun _ => .rxEscEsc⟩,
    ⟨true, [.escaped], 0x00#8, 0x00#8, [0xDC#8, 0xDD#8], .rxEscBad⟩ ]

/-- The instruction of the first row of R76 that takes the byte. -/
def rxByRows (c : DecodeContext) (b : Byte) : Option Instr :=
  (rxRows.find? fun r => r.takes c.up c.rxPhase b).map fun r => r.make b

/-- The condition column of 30_encoding.md R79. -/
inductive TxCondition where
  /-- no condition -/
  | any
  /-- `enc_idx == enc_len` -/
  | atEnd
  /-- `enc_idx < enc_len and s ∈ {0xC0, 0xDB}` -/
  | escapes
  /-- `enc_idx < enc_len and s ∉ {0xC0, 0xDB}` -/
  | plain
deriving DecidableEq, Repr

/-- Does the condition hold? -/
def TxCondition.holds (c : DecodeContext) : TxCondition → Bool
  | .any => true
  | .atEnd => decide (c.encIdx = c.encLen)
  | .escapes => decide (c.encIdx < c.encLen) && [0xC0#8, 0xDB#8].contains c.src
  | .plain => decide (c.encIdx < c.encLen) && !([0xC0#8, 0xDB#8].contains c.src)

/-- The five rows of 30_encoding.md R79, in its order. -/
def txRows : List (EncPhase × TxCondition × Instr) :=
  [ (.lead, .any, .txLead), (.data, .atEnd, .txTrail), (.data, .escapes, .txEsc), (.data, .plain, .txData),
    (.esc2, .any, .txCode) ]

/-- The instruction of the first row of R79 that holds. -/
def txByRows (c : DecodeContext) : Option Instr :=
  (txRows.find? fun r => r.1 == c.encPhase && r.2.1.holds c).map fun r => r.2.2

/-! ## Encoding -/

/-- The event of an instruction: a receive class is the byte of its row (R76), an emission class is EMIT (R79), a
command is its code with its row's operands, the other fields 0 (R80, R81). -/
def encode : Instr → Event
  | .rxDiscard b => .rx b
  | .rxStartEnd => .rx 0xC0#8
  | .rxStartData b => .rx b
  | .rxEnd => .rx 0xC0#8
  | .rxEsc => .rx 0xDB#8
  | .rxData b => .rx b
  | .rxEscEnd => .rx 0xDC#8
  | .rxEscEsc => .rx 0xDD#8
  | .rxEscBad b => .rx b
  | .rxErr => .rxErr
  | .txLead | .txTrail | .txEsc | .txData | .txCode => .emit
  | .ifup => .command ⟨0x1#4, 0, 0, 0#8⟩
  | .ifdown => .command ⟨0x2#4, 0, 0, 0#8⟩
  | .ack n => .command ⟨0x3#4, n, 0, 0#8⟩
  | .txstart n => .command ⟨0x4#4, n, 0, 0#8⟩
  | .wtx i v => .command ⟨0x5#4, 0, i, v⟩
  | .rtx i => .command ⟨0x6#4, 0, i, 0#8⟩
  | .wrx i v => .command ⟨0x7#4, 0, i, v⟩
  | .rrx i => .command ⟨0x8#4, 0, i, 0#8⟩
  | .status => .command ⟨0x9#4, 0, 0, 0#8⟩
  | .reserved0 => .command ⟨0x0#4, 0, 0, 0#8⟩
  | .reservedA => .command ⟨0xA#4, 0, 0, 0#8⟩
  | .reservedB => .command ⟨0xB#4, 0, 0, 0#8⟩
  | .reservedC => .command ⟨0xC#4, 0, 0, 0#8⟩
  | .reservedD => .command ⟨0xD#4, 0, 0, 0#8⟩
  | .reservedE => .command ⟨0xE#4, 0, 0, 0#8⟩
  | .reservedF => .command ⟨0xF#4, 0, 0, 0#8⟩

/-- A command word with the fields that are no operand of its row set to 0: the word's meaning is the same
(30_encoding.md R81; DEDUCED, log 14). -/
def CommandWord.operandsOnly (w : CommandWord) : CommandWord :=
  match w.op with
  | 0x3#4 | 0x4#4 => { w with i := 0, v := 0#8 }
  | 0x5#4 | 0x7#4 => { w with n := 0 }
  | 0x6#4 | 0x8#4 => { w with n := 0, v := 0#8 }
  | _ => { w with n := 0, i := 0, v := 0#8 }

/-- An event without the fields that are not part of it. -/
def Event.operandsOnly : Event → Event
  | .command w => .command w.operandsOnly
  | e => e

/-- The agent that offers an event (60_exceptions.md R195). -/
def Event.agent : Event → Agent
  | .rx _ | .rxErr => .receivePort
  | .emit => .transmitPort
  | .command _ => .host

/-! ## The words of the opcode table, as one number

The table gives a host command four bits and a received byte eight, and no field that tells the two apart. A number below
16 is read as a command code with its operands 0, any other byte as a received byte (DESIGN CHOICE, log 7). -/

/-- The event of a table word. -/
def tableEvent (w : Nat) : Event :=
  if w < 16 then .command ⟨BitVec.ofNat 4 w, 0, 0, 0#8⟩ else .rx (BitVec.ofNat 8 w)

/-- The receive phase in which a table word is read with UP = 1: that of the first row of R76 whose match fixes the
byte, START for a byte no row fixes (DESIGN CHOICE, log 7). -/
def tablePhase (w : Nat) : RxPhase :=
  if w = 0xDB then .body else if w = 0xDC ∨ w = 0xDD then .escaped else .start

/-- The context a table word is read in. -/
def tableContext (w : Nat) : DecodeContext :=
  { up := true, rxPhase := tablePhase w, encPhase := .idle, encIdx := 0, encLen := 0, src := 0#8 }

/-- The instruction the decoder reads from a table word; none for more than eight bits. -/
def decodeTableWord (nbits w : Nat) : Option Instr :=
  if nbits ≤ 8 ∧ w < 2 ^ nbits then
    match decode (tableContext w) (tableEvent w) with
    | .ok i => some i
    | .error _ => none
  else none

end Sys2Proof
end

