-- ==== Sys2Proof/Machine/State.lean ====
section
/-! DEFINITION. The state of the machine, its faults and refusals, and the state after reset. -/

namespace Sys2Proof.Machine

/-- The fault codes with the values they record (60_exceptions.md R181). Only host commands raise them. Each is safe: the
spec itself ends the run there. The command is recorded by name, its operand beside it where the table says so
(DEDUCED, log 11). -/
inductive Fault where
  /-- code 1: ACK with no frame presented. Safe. -/
  | ackNoFrame (cmd : CommandName)
  /-- code 2: ACK or TXSTART with `n > CAP`. Safe. -/
  | lenRange (cmd : CommandName) (n : Nat)
  /-- code 3: WTX, RTX, WRX or RRX with `i ≥ CAP`. Safe. -/
  | indexRange (cmd : CommandName) (i : Nat)
  /-- code 4: WRX or RRX outside HANDOFF. Safe. -/
  | rxbufOwner (cmd : CommandName) (phase : RxPhase)
  /-- code 5: WTX while the encoder reads `tx_buf`. Safe. -/
  | txbufOwner (cmd : CommandName) (phase : EncPhase)
deriving DecidableEq, Repr

/-- Why a step has no meaning. -/
inductive Refusal where
  /-- raised by an arm of `exec` whose instruction has no meaning yet. Safe: nothing is said of what it does. -/
  | notModelled (mnemonic : String)
  /-- RESERVED_COMMAND: raised by a step from a state whose `refused` mark is set (60_exceptions.md R182). Safe: the spec
  itself ends the run there. -/
  | reservedCommand
deriving DecidableEq, Repr

/-- The result of a receive step (40_receive.md R100). -/
inductive RxResult where
  | assembling
  | complete
  | discarded
deriving DecidableEq, Repr

/-- The response of a host command (42_host.md R151). -/
inductive Response where
  /-- the command took effect -/
  | ok
  /-- accepted, but nothing was transmitted because `UP = 0` -/
  | dropped
  /-- the byte read by RTX or RRX -/
  | byte (b : Byte)
  /-- the status record: SW, `rx_len`, `enc_len`, `enc_idx` -/
  | record (sw : BitVec 16) (rxLen encLen encIdx : Nat)
deriving DecidableEq, Repr

/-- The outputs of one step (00_scope.md R10). -/
inductive Output where
  /-- `result(c)` and `viol(f)` of a receive step -/
  | received (c : RxResult) (viol : Bool)
  /-- `emit(b)` of an emission step -/
  | emitted (b : Byte)
  /-- `respond(x)` of a host command -/
  | responded (r : Response)
deriving DecidableEq, Repr

/-- A byte space: index and byte, indices strictly rising, no byte equal to what an unlisted index reads as. -/
abbrev Memory := List Host.Cell

/-- The block: exactly the ten fields of the state vector (10_state.md R20) and the two run marks (R39). -/
structure Block where
  /-- `UP` (R21) -/
  up       : Bool
  /-- `rx_buf` (R22) -/
  rxBuf    : Memory
  /-- `rx_len` (R23) -/
  rxLen    : Nat
  /-- `rx_phase` (R24) -/
  rxPhase  : RxPhase
  /-- `tx_buf` (R25) -/
  txBuf    : Memory
  /-- `enc_phase` (R26) -/
  encPhase : EncPhase
  /-- `enc_src` (R27) -/
  encSrc   : EncSrc
  /-- `enc_len` (R28) -/
  encLen   : Nat
  /-- `enc_idx` (R29) -/
  encIdx   : Nat
  /-- `enc_code` (R30) -/
  encCode  : Byte
  /-- the `fault` mark (R39) -/
  fault    : Option Fault
  /-- the `refused` mark (R39) -/
  refused  : Bool
deriving DecidableEq, Repr

/-- The machine's state: the block, and beside it what is not the block's, the parameter MAXPKT and the model's own record
of the agents (their pending events and turns) and of the outputs so far. -/
structure State extends Block where
  /-- MAXPKT (00_scope.md R5), which no step changes (DESIGN CHOICE, log 3) -/
  maxpkt   : Nat
  /-- the receive port's pending events, oldest first (DESIGN CHOICE, log 1) -/
  rxPort   : List RxOffer
  /-- how many `EMIT` events the transmit port has pending (DESIGN CHOICE, log 1) -/
  txTakes  : Nat
  /-- the host's pending command words, oldest first (DESIGN CHOICE, log 1) -/
  hostPort : List CommandWord
  /-- the agents' turns, next first (DESIGN CHOICE, log 1) -/
  schedule : List Agent
  /-- the outputs of every step so far, oldest first (DESIGN CHOICE, log 2) -/
  outputs  : List Output
deriving DecidableEq, Repr

/-- The block after reset (70_reset_and_hazards.md R210): every field at its value in 10_state.md R20, no mark set. -/
def Block.reset : Block :=
  { up := false, rxBuf := [], rxLen := 0, rxPhase := .start, txBuf := [], encPhase := .idle, encSrc := .txbuf
    encLen := 0, encIdx := 0, encCode := 0x00#8, fault := none, refused := false }

/-- The state after reset for one value of MAXPKT: the block reset, nothing pending at any agent. -/
def State.resetWith (maxpkt : Nat) : State :=
  { Block.reset with
    maxpkt := maxpkt, rxPort := [], txTakes := 0, hostPort := [], schedule := [], outputs := [] }

/-- The state after reset. -/
def State.reset : State := State.resetWith Config.maxpkt

end Sys2Proof.Machine
end

