-- ==== Sys2Proof/Machine/Ops.lean ====
section
/-! DEFINITION. The named operations over the buffers, the outputs and the run marks. -/

namespace Sys2Proof.Machine

/-- One step's outcome. -/
abbrev Result := Host.Outcome State Fault Refusal

/-! ## The buffers (20_memory.md R50) -/

/-- What an unlisted index reads as: the buffers are zero after reset (10_state.md R22, R25; DEDUCED, log 10). -/
def Memory.unlisted : Byte := 0x00#8

/-- Read one byte. -/
def Memory.read : Memory → Nat → Byte
  | [], _ => Memory.unlisted
  | (k, x) :: m, a => if a = k then x else Memory.read m a

/-- Write one byte, keeping the indices rising and listing no byte that an unlisted index reads as. -/
def Memory.write : Memory → Nat → Byte → Memory
  | [], a, v => if v = Memory.unlisted then [] else [(a, v)]
  | (k, x) :: m, a, v =>
    if a < k then (if v = Memory.unlisted then (k, x) :: m else (a, v) :: (k, x) :: m)
    else if a = k then (if v = Memory.unlisted then m else (a, v) :: m)
    else (k, x) :: Memory.write m a v

/-- The canonical form. -/
abbrev Memory.wf (m : Memory) : Prop :=
  m.Pairwise (fun a b => a.1 < b.1) ∧ ∀ c ∈ m, c.2 ≠ Memory.unlisted

/-- Every listed index exists: it is below the capacity (20_memory.md R50). -/
abbrev Memory.within (cap : Nat) (m : Memory) : Prop := ∀ c ∈ m, c.1 < cap

/-- `CAP = MAXPKT + 2` (00_scope.md R6). -/
def State.cap (s : State) : Nat := s.maxpkt + 2

/-- The buffer of a space. -/
def State.buffer (s : State) : Space → Memory
  | .rxbuf => s.rxBuf
  | .txbuf => s.txBuf

/-- Read byte `a` of a space. -/
def State.readByte (s : State) (sp : Space) (a : Nat) : Byte := (s.buffer sp).read a

/-- Write byte `a` of a space. -/
def State.writeByte (s : State) (sp : Space) (a : Nat) (v : Byte) : State :=
  match sp with
  | .rxbuf => { s with rxBuf := s.rxBuf.write a v }
  | .txbuf => { s with txBuf := s.txBuf.write a v }

/-- The first `n` bytes of a space. -/
def State.bytes (s : State) (sp : Space) (n : Nat) : List Byte := (List.range n).map (s.readByte sp)

/-! ## STORE (40_receive.md R101) -/

/-- The index STORE writes: `rx_len` while it is below CAP, none at capacity. -/
def State.storeIndex (s : State) : Option Nat := if s.rxLen < s.cap then some s.rxLen else none

/-- `STORE(v)`: the byte and the length, or nothing at capacity. -/
def State.store (s : State) (v : Byte) : State :=
  match s.storeIndex with
  | some k => { s.writeByte .rxbuf k v with rxLen := s.rxLen + 1 }
  | none => s

/-! ## Outputs (00_scope.md R10) -/

/-- `result(c); viol(f)`. -/
def State.result (s : State) (c : RxResult) (f : Bool) : State :=
  { s with outputs := s.outputs ++ [.received c f] }

/-- `emit(b)`. -/
def State.emit (s : State) (b : Byte) : State := { s with outputs := s.outputs ++ [.emitted b] }

/-- `respond(x)`. -/
def State.respond (s : State) (r : Response) : State := { s with outputs := s.outputs ++ [.responded r] }

/-! ## The run marks (10_state.md R39)

Taking a fault is the one exceptional entry the spec describes, and it has no return (60_exceptions.md R180, R192). -/

/-- `raise Fault(code)`: the mark is recorded, nothing else changes and no response is given (60_exceptions.md R181;
42_host.md R151). -/
def State.raise (s : State) (f : Fault) : State := { s with fault := some f }

/-- `refuse(RESERVED_COMMAND)`: the mark is set, nothing else changes (60_exceptions.md R182). -/
def State.refuse (s : State) : State := { s with refused := true }

end Sys2Proof.Machine
end

