-- ==== Sys2Proof/Machine/Operands.lean ====
section
/-! DEFINITION. Operands: the source byte, the range checks, the frames in the buffers, the byte an instruction stores. -/

namespace Sys2Proof.Machine

/-- The space `enc_src` names. -/
def sourceSpace : EncSrc → Space
  | .txbuf => .txbuf
  | .rxbuf => .rxbuf

/-- `SRC(i)`, read when it is emitted (41_transmit.md R131). -/
def State.src (s : State) (i : Nat) : Byte := s.readByte (sourceSpace s.encSrc) i

/-- The frame being encoded, `SRC[0..enc_len)` (41_transmit.md R137). -/
def State.sourceFrame (s : State) : List Byte := s.bytes (sourceSpace s.encSrc) s.encLen

/-- The bytes assembled, `rx_buf[0..rx_len)`: in HANDOFF the frame presented (10_state.md R32). -/
def State.frame (s : State) : List Byte := s.bytes .rxbuf s.rxLen

/-- Is `i` an index of a buffer (20_memory.md R54)? -/
def State.indexOk (s : State) (i : Nat) : Bool := decide (i < s.cap)

/-- Is `n` a length a buffer can hold (42_host.md R154, R155)? -/
def State.lengthOk (s : State) (n : Nat) : Bool := decide (n ≤ s.cap)

/-- The byte an instruction stores to when it takes effect, if its form stores: index 0 for the first byte of a frame
(40_receive.md R104), STORE's index (R101), the operand of WTX and WRX (42_host.md R156, R158). -/
def State.storeAddress (s : State) : Instr → Option (Space × Nat)
  | .rxStartData _ => some (.rxbuf, 0)
  | .rxData _ | .rxEscEnd | .rxEscEsc | .rxEscBad _ => s.storeIndex.map fun k => (.rxbuf, k)
  | .wtx i _ => some (.txbuf, i)
  | .wrx i _ => some (.rxbuf, i)
  | .rxDiscard _ | .rxStartEnd | .rxEnd | .rxEsc | .rxErr => none
  | .txLead | .txTrail | .txEsc | .txData | .txCode => none
  | .ifup | .ifdown | .ack _ | .txstart _ | .rtx _ | .rrx _ | .status => none
  | .reserved0 | .reservedA | .reservedB | .reservedC | .reservedD | .reservedE | .reservedF => none

end Sys2Proof.Machine
end

