-- ==== Sys2Proof/Machine/Flags.lean ====
section
/-! DEFINITION. The codes of the phases, the derived signals, and the STATUS word. -/

namespace Sys2Proof.Machine

/-- The 3-bit code of a receive phase (10_state.md R24). -/
def rxPhaseCode : RxPhase → BitVec 3
  | .start => 0#3
  | .body => 1#3
  | .escaped => 2#3
  | .handoff => 3#3
  | .reply => 4#3
  | .failed => 5#3

/-- The 2-bit code of an encoder phase (10_state.md R26). -/
def encPhaseCode : EncPhase → BitVec 2
  | .idle => 0#2
  | .lead => 1#2
  | .data => 2#2
  | .esc2 => 3#2

/-- The bit of `enc_src` (10_state.md R27). -/
def encSrcCode : EncSrc → BitVec 1
  | .txbuf => 0#1
  | .rxbuf => 1#1

/-- The code of a receive result (40_receive.md R100). -/
def rxResultCode : RxResult → Nat
  | .assembling => 0
  | .complete => 1
  | .discarded => 2

/-- The code of a fault (60_exceptions.md R181). -/
def faultCode : Fault → Nat
  | .ackNoFrame _ => 1
  | .lenRange _ _ => 2
  | .indexRange _ _ => 3
  | .rxbufOwner _ _ => 4
  | .txbufOwner _ _ => 5

/-- `rx_ready` (10_state.md R31). -/
def State.rxReady (s : State) : Bool := s.rxPhase.ready

/-- `frame_valid` (10_state.md R32). -/
def State.frameValid (s : State) : Bool := s.rxPhase == .handoff

/-- `tx_busy` (10_state.md R33). -/
def State.txBusy (s : State) : Bool := s.encPhase != .idle

/-- The encoder owns `tx_buf` (20_memory.md R58). -/
def State.txBufOwned (s : State) : Bool := s.txBusy && s.encSrc == .txbuf

/-- No run mark is set: events can be enabled (60_exceptions.md R181, R182). -/
def State.live (s : State) : Bool := s.fault.isNone && !s.refused

/-- The STATUS word SW (10_state.md R34; 42_host.md R160). -/
def State.statusWord (s : State) : BitVec 16 :=
  (BitVec.ofBool s.up).setWidth 16
    ||| ((rxPhaseCode s.rxPhase).setWidth 16 <<< 1)
    ||| ((encPhaseCode s.encPhase).setWidth 16 <<< 4)
    ||| ((encSrcCode s.encSrc).setWidth 16 <<< 6)

/-- What STATUS responds: one snapshot of the state before the step (42_host.md R160; 20_memory.md R55). -/
def State.statusRecord (s : State) : Response := .record s.statusWord s.rxLen s.encLen s.encIdx

end Sys2Proof.Machine
end

