-- ==== Sys2Proof/Machine/Enable.lean ====
section
/-! DEFINITION. When an instruction is enabled, and the hold. -/

namespace Sys2Proof.Machine

/-- What the decoder reads of the state. -/
def State.context (s : State) : DecodeContext :=
  { up := s.up, rxPhase := s.rxPhase, encPhase := s.encPhase, encIdx := s.encIdx, encLen := s.encLen
    src := s.src s.encIdx }

/-- The busy holds: ACK with a reply and TXSTART wait for the encoder to be idle (42_host.md R154, R155;
60_exceptions.md R183). No other instruction has one. -/
def State.busyHold (s : State) : Instr → Bool
  | .ack n => decide (1 ≤ n) && s.lengthOk n && s.frameValid && s.up && s.txBusy
  | .txstart n => s.lengthOk n && s.up && s.txBusy
  | .rxDiscard _ | .rxStartEnd | .rxStartData _ | .rxEnd | .rxEsc | .rxData _ | .rxEscEnd | .rxEscEsc => false
  | .rxEscBad _ | .rxErr | .txLead | .txTrail | .txEsc | .txData | .txCode => false
  | .ifup | .ifdown | .wtx _ _ | .rtx _ | .wrx _ _ | .rrx _ | .status => false
  | .reserved0 | .reservedA | .reservedB | .reservedC | .reservedD | .reservedE | .reservedF => false

/-- An instruction is enabled: no run mark is set, its row is the one the opcode table selects, and it has no busy hold
(00_scope.md R9; 40_receive.md R100, R111; 41_transmit.md R130; 42_host.md R150). -/
def State.enabled (s : State) (i : Instr) : Bool := s.live && selects s.context i && !s.busyHold i

/-- Run a body where the instruction is enabled. Otherwise the event holds and no state changes (00_scope.md R10, R11;
60_exceptions.md R183; DEDUCED, log 5). -/
def whenEnabled (i : Instr) (s : State) (body : State → State) : Result :=
  if s.enabled i then .next (body s) else .next s

end Sys2Proof.Machine
end

