-- ==== Sys2Proof/Machine/HostCommands.lean ====
section
/-! DEFINITION. The host commands (42_host.md R152 to R160) and the reserved codes (30_encoding.md R82). The checks stand
in the order of 60_exceptions.md R190. -/

namespace Sys2Proof.Machine

/-- R152: on the up edge a decoder that takes bytes starts afresh. -/
def execIfup (s : State) : Result :=
  whenEnabled .ifup s fun s =>
    (if s.up then s
      else if s.rxReady then { s with up := true, rxPhase := .start, rxLen := 0 }
      else { s with up := true }).respond .ok

/-- R153. -/
def execIfdown (s : State) : Result :=
  whenEnabled .ifdown s fun s => { s with up := false }.respond .ok

/-- The encoder starts on a frame of length `n` (42_host.md R154, R155). -/
def State.startEncode (s : State) (src : EncSrc) (n : Nat) : State :=
  { s with encSrc := src, encLen := n, encIdx := 0, encPhase := .lead }

/-- R154: release the presented frame, with a reply of `n` bytes when `n > 0`. -/
def execAck (n : Nat) (s : State) : Result :=
  whenEnabled (.ack n) s fun s =>
    if !s.lengthOk n then s.raise (.lenRange .ack n)
    else if !s.frameValid then s.raise (.ackNoFrame .ack)
    else if n = 0 then { s with rxLen := 0, rxPhase := .start }.respond .ok
    else if !s.up then { s with rxLen := 0, rxPhase := .start }.respond .dropped
    else ({ s with rxLen := 0, rxPhase := .reply }.startEncode .rxbuf n).respond .ok

/-- R155: encode and transmit the first `n` bytes of `tx_buf`. -/
def execTxstart (n : Nat) (s : State) : Result :=
  whenEnabled (.txstart n) s fun s =>
    if !s.lengthOk n then s.raise (.lenRange .txstart n)
    else if !s.up then s.respond .dropped
    else (s.startEncode .txbuf n).respond .ok

/-- R156. -/
def execWtx (i : Nat) (v : Byte) (s : State) : Result :=
  whenEnabled (.wtx i v) s fun s =>
    if !s.indexOk i then s.raise (.indexRange .wtx i)
    else if s.txBufOwned then s.raise (.txbufOwner .wtx s.encPhase)
    else (s.writeByte .txbuf i v).respond .ok

/-- R157. -/
def execRtx (i : Nat) (s : State) : Result :=
  whenEnabled (.rtx i) s fun s =>
    if !s.indexOk i then s.raise (.indexRange .rtx i)
    else s.respond (.byte (s.readByte .txbuf i))

/-- R158. -/
def execWrx (i : Nat) (v : Byte) (s : State) : Result :=
  whenEnabled (.wrx i v) s fun s =>
    if !s.indexOk i then s.raise (.indexRange .wrx i)
    else if !s.frameValid then s.raise (.rxbufOwner .wrx s.rxPhase)
    else (s.writeByte .rxbuf i v).respond .ok

/-- R159. -/
def execRrx (i : Nat) (s : State) : Result :=
  whenEnabled (.rrx i) s fun s =>
    if !s.indexOk i then s.raise (.indexRange .rrx i)
    else if !s.frameValid then s.raise (.rxbufOwner .rrx s.rxPhase)
    else s.respond (.byte (s.readByte .rxbuf i))

/-- R160. -/
def execStatus (s : State) : Result :=
  whenEnabled .status s fun s => s.respond s.statusRecord

/-- Reserved code 0x0 (R82). -/
def execReserved0 (s : State) : Result := whenEnabled .reserved0 s State.refuse

/-- Reserved code 0xA (R82). -/
def execReservedA (s : State) : Result := whenEnabled .reservedA s State.refuse

/-- Reserved code 0xB (R82). -/
def execReservedB (s : State) : Result := whenEnabled .reservedB s State.refuse

/-- Reserved code 0xC (R82). -/
def execReservedC (s : State) : Result := whenEnabled .reservedC s State.refuse

/-- Reserved code 0xD (R82). -/
def execReservedD (s : State) : Result := whenEnabled .reservedD s State.refuse

/-- Reserved code 0xE (R82). -/
def execReservedE (s : State) : Result := whenEnabled .reservedE s State.refuse

/-- Reserved code 0xF (R82). -/
def execReservedF (s : State) : Result := whenEnabled .reservedF s State.refuse

end Sys2Proof.Machine
end

