-- ==== Sys2Proof/Machine/Receive.lean ====
section
/-! DEFINITION. The receive classes (40_receive.md R102 to R111). -/

namespace Sys2Proof.Machine

/-- R102: the byte is consumed and lost. -/
def execRxDiscard (b : Byte) (s : State) : Result :=
  whenEnabled (.rxDiscard b) s fun s => s.result .discarded false

/-- R103: a new frame, the END not stored. -/
def execRxStartEnd (s : State) : Result :=
  whenEnabled .rxStartEnd s fun s => { s with rxLen := 0, rxPhase := .body }.result .assembling false

/-- R104: a new frame whose first byte is stored, ESC included. -/
def execRxStartData (b : Byte) (s : State) : Result :=
  whenEnabled (.rxStartData b) s fun s =>
    { s.writeByte .rxbuf 0 b with rxLen := 1, rxPhase := .body }.result .assembling false

/-- R105: the frame is complete, or the END is a keep-alive. -/
def execRxEnd (s : State) : Result :=
  whenEnabled .rxEnd s fun s =>
    if 0 < s.rxLen then { s with rxPhase := .handoff }.result .complete false else s.result .discarded false

/-- R106: an escape opens. -/
def execRxEsc (s : State) : Result :=
  whenEnabled .rxEsc s fun s => { s with rxPhase := .escaped }.result .assembling false

/-- R107: an ordinary byte. -/
def execRxData (b : Byte) (s : State) : Result :=
  whenEnabled (.rxData b) s fun s => (s.store b).result .assembling false

/-- R108: ESC_END after ESC stores END. -/
def execRxEscEnd (s : State) : Result :=
  whenEnabled .rxEscEnd s fun s => { s.store END with rxPhase := .body }.result .assembling false

/-- R109: ESC_ESC after ESC stores ESC. -/
def execRxEscEsc (s : State) : Result :=
  whenEnabled .rxEscEsc s fun s => { s.store ESC with rxPhase := .body }.result .assembling false

/-- R110: any other byte after ESC is stored verbatim and reported as a violation. -/
def execRxEscBad (b : Byte) (s : State) : Result :=
  whenEnabled (.rxEscBad b) s fun s => { s.store b with rxPhase := .body }.result .assembling true

/-- R111: the receive path is stuck from here; no output. -/
def execRxErr (s : State) : Result :=
  whenEnabled .rxErr s fun s => { s with rxPhase := .failed }

end Sys2Proof.Machine
end

