-- ==== Sys2Proof/Machine/Transmit.lean ====
section
/-! DEFINITION. The emission classes (41_transmit.md R132 to R136). -/

namespace Sys2Proof.Machine

/-- R132: the leading END. -/
def execTxLead (s : State) : Result :=
  whenEnabled .txLead s fun s => { s with encPhase := .data }.emit END

/-- R133: an ordinary source byte. -/
def execTxData (s : State) : Result :=
  whenEnabled .txData s fun s => { s with encIdx := s.encIdx + 1 }.emit (s.src s.encIdx)

/-- R134: the first byte of an escape pair; `enc_idx` stays. -/
def execTxEsc (s : State) : Result :=
  whenEnabled .txEsc s fun s =>
    { s with encCode := if s.src s.encIdx = END then ESC_END else ESC_ESC, encPhase := .esc2 }.emit ESC

/-- R135: the second byte of an escape pair; `enc_code` stays. -/
def execTxCode (s : State) : Result :=
  whenEnabled .txCode s fun s => { s with encIdx := s.encIdx + 1, encPhase := .data }.emit s.encCode

/-- R136: the trailing END; after a reply the receive buffer returns to the decoder. -/
def execTxTrail (s : State) : Result :=
  whenEnabled .txTrail s fun s =>
    { s with encPhase := .idle, rxPhase := if s.encSrc = EncSrc.rxbuf then .start else s.rxPhase }.emit END

end Sys2Proof.Machine
end

