-- ==== Sys2Proof/Machine/Dispatch.lean ====
section
/-! DEFINITION. The dispatch: one arm per instruction. -/

namespace Sys2Proof.Machine

/-- What an instruction does. -/
def exec (i : Instr) (s : State) : Host.Outcome State Fault Refusal :=
  match i with
  | .rxDiscard b => Sys2Proof.Machine.execRxDiscard b s
  | .rxStartEnd => Sys2Proof.Machine.execRxStartEnd s
  | .rxStartData b => Sys2Proof.Machine.execRxStartData b s
  | .rxEnd => Sys2Proof.Machine.execRxEnd s
  | .rxEsc => Sys2Proof.Machine.execRxEsc s
  | .rxData b => Sys2Proof.Machine.execRxData b s
  | .rxEscEnd => Sys2Proof.Machine.execRxEscEnd s
  | .rxEscEsc => Sys2Proof.Machine.execRxEscEsc s
  | .rxEscBad b => Sys2Proof.Machine.execRxEscBad b s
  | .rxErr => Sys2Proof.Machine.execRxErr s
  | .txLead => Sys2Proof.Machine.execTxLead s
  | .txTrail => Sys2Proof.Machine.execTxTrail s
  | .txEsc => Sys2Proof.Machine.execTxEsc s
  | .txData => Sys2Proof.Machine.execTxData s
  | .txCode => Sys2Proof.Machine.execTxCode s
  | .ifup => Sys2Proof.Machine.execIfup s
  | .ifdown => Sys2Proof.Machine.execIfdown s
  | .ack n => Sys2Proof.Machine.execAck n s
  | .txstart n => Sys2Proof.Machine.execTxstart n s
  | .wtx k v => Sys2Proof.Machine.execWtx k v s
  | .rtx k => Sys2Proof.Machine.execRtx k s
  | .wrx k v => Sys2Proof.Machine.execWrx k v s
  | .rrx k => Sys2Proof.Machine.execRrx k s
  | .status => Sys2Proof.Machine.execStatus s
  | .reserved0 => Sys2Proof.Machine.execReserved0 s
  | .reservedA => Sys2Proof.Machine.execReservedA s
  | .reservedB => Sys2Proof.Machine.execReservedB s
  | .reservedC => Sys2Proof.Machine.execReservedC s
  | .reservedD => Sys2Proof.Machine.execReservedD s
  | .reservedE => Sys2Proof.Machine.execReservedE s
  | .reservedF => Sys2Proof.Machine.execReservedF s

end Sys2Proof.Machine
end

