-- ==== Sys2Proof/Machine/Ports.lean ====
section
/-! DEFINITION. The agents' pending events: what is offered, taken, delivered; one agent's turn. -/

namespace Sys2Proof.Machine

/-- The event an agent offers: its oldest pending one (20_memory.md R61; 42_host.md R150; DEDUCED, log 12). -/
def State.offer (s : State) : Agent → Option Event
  | .receivePort => s.rxPort.head?.map RxOffer.event
  | .transmitPort => if s.txTakes = 0 then none else some .emit
  | .host => s.hostPort.head?.map Event.command

/-- Take the agent's oldest pending event off its source: it cannot be repeated (20_memory.md R55). -/
def State.take (s : State) : Agent → State
  | .receivePort => { s with rxPort := s.rxPort.tail }
  | .transmitPort => { s with txTakes := s.txTakes - 1 }
  | .host => { s with hostPort := s.hostPort.tail }

/-- Is the event enabled (00_scope.md R9)? -/
def State.accepts (s : State) (e : Event) : Bool :=
  match decode s.context e with
  | .ok i => s.enabled i
  | .error _ => false

/-- Run an event: classify it and execute its instruction; an event with no class holds. -/
def deliver (e : Event) (s : State) : Result :=
  match decode s.context e with
  | .ok i => exec i s
  | .error _ => .next s

/-- One agent's turn: its oldest event is taken and run if it is enabled, and holds, staying pending, if it is not
(60_exceptions.md R183). An agent with nothing pending does nothing (DESIGN CHOICE, log 6). -/
def turn (a : Agent) (s : State) : Result :=
  match s.offer a with
  | none => .next s
  | some e => if s.accepts e then deliver e (s.take a) else .next s

/-- Place a table word as the very next event: at the head of its agent's pending events, with the agent's turn next, no
run mark set, and for a received byte the interface up and the decoder in the word's phase, which select its class
(DESIGN CHOICE, log 7 and log 8). A word wider than eight bits is none of the table's and changes nothing. -/
def placeWord (s : State) (nbits w : Nat) : State :=
  if nbits ≤ 8 ∧ w < 2 ^ nbits then
    match tableEvent w with
    | .command c =>
      { s with fault := none, refused := false, hostPort := c :: s.hostPort, schedule := .host :: s.schedule }
    | .rx b =>
      { s with fault := none, refused := false, up := true, rxPhase := tablePhase w, rxPort := .byte b :: s.rxPort
               schedule := .receivePort :: s.schedule }
    | .rxErr | .emit => s
  else s

end Sys2Proof.Machine
end

