-- ==== Sys2Proof/Machine/Step.lean ====
section
/-! DEFINITION. One step, and where a word is placed to be the next event. -/

namespace Sys2Proof.Machine

/-- One step. From a marked state no event is enabled and the run has ended (60_exceptions.md R181, R182). Otherwise the
agent the schedule names next has its turn; with no turn left nothing happens (DESIGN CHOICE, log 1, log 4 and log 6). -/
def step (s : State) : Host.Outcome State Fault Refusal :=
  match s.fault with
  | some f => .fault f
  | none =>
    if s.refused then .refused .reservedCommand
    else match s.schedule with
      | [] => .next s
      | a :: rest => turn a { s with schedule := rest }

/-- The state whose next step runs the table word `w`. -/
def State.withFetchWord (s : State) (nbits w : Nat) : State := placeWord s nbits w

end Sys2Proof.Machine
end

