-- ==== Sys2Proof/Machine/Wire.lean ====
section
/-! DEFINITION. The wire format of a frame, and what the encoder still has to emit. -/

namespace Sys2Proof.Machine

/-- The wire form of one frame byte (30_encoding.md R72). -/
def stuff (b : Byte) : List Byte :=
  if b = END then [ESC, ESC_END] else if b = ESC then [ESC, ESC_ESC] else [b]

/-- The wire form of a frame, `encode(x)` (30_encoding.md R71). -/
def wireEncode (x : List Byte) : List Byte := [END] ++ x.flatMap stuff ++ [END]

/-- The bytes the encoder has still to emit for the frame it is on, in order (41_transmit.md R130 to R137). -/
def State.remaining (s : State) : List Byte :=
  match s.encPhase with
  | .idle => []
  | .lead => wireEncode s.sourceFrame
  | .data => (s.sourceFrame.drop s.encIdx).flatMap stuff ++ [END]
  | .esc2 => s.encCode :: ((s.sourceFrame.drop (s.encIdx + 1)).flatMap stuff ++ [END])

end Sys2Proof.Machine
end

