-- ==== Sys2Proof/Machine/Trace.lean ====
section
/-! DEFINITION. Traces: valid traces and their end state, the pseudo-events, and a trace as the agents' pending events. -/

namespace Sys2Proof.Machine

/-! ## Valid traces (30_encoding.md R84) -/

/-- The end state of a trace, none where an event is not enabled in the state its predecessors reach. -/
def runTrace : List Event → State → Option State
  | [], s => some s
  | e :: es, s =>
    if s.accepts e then
      match deliver e s with
      | .next t => runTrace es t
      | .fault _ | .refused _ => none
    else none

/-- Put an event behind its agent's pending events, with a turn for the agent behind the schedule. -/
def State.enqueue (s : State) (e : Event) : State :=
  match e with
  | .rx b => { s with rxPort := s.rxPort ++ [RxOffer.byte b], schedule := s.schedule ++ [Agent.receivePort] }
  | .rxErr => { s with rxPort := s.rxPort ++ [RxOffer.error], schedule := s.schedule ++ [Agent.receivePort] }
  | .emit => { s with txTakes := s.txTakes + 1, schedule := s.schedule ++ [Agent.transmitPort] }
  | .command w => { s with hostPort := s.hostPort ++ [w], schedule := s.schedule ++ [Agent.host] }

/-- Put a trace into the agents' pending events, with its written order as the schedule (R84; DESIGN CHOICE, log 1). -/
def State.load (s : State) (es : List Event) : State := es.foldl State.enqueue s

/-! ## The events by the names of the trace syntax -/

/-- `IFUP` -/
def evIfup : Event := encode .ifup
/-- `IFDOWN` -/
def evIfdown : Event := encode .ifdown
/-- `ACK n` -/
def evAck (n : Nat) : Event := encode (.ack n)
/-- `TXSTART n` -/
def evTxstart (n : Nat) : Event := encode (.txstart n)
/-- `WTX i, v` -/
def evWtx (i : Nat) (v : Byte) : Event := encode (.wtx i v)
/-- `RTX i` -/
def evRtx (i : Nat) : Event := encode (.rtx i)
/-- `WRX i, v` -/
def evWrx (i : Nat) (v : Byte) : Event := encode (.wrx i v)
/-- `RRX i` -/
def evRrx (i : Nat) : Event := encode (.rrx i)
/-- `STATUS` -/
def evStatus : Event := encode .status

/-! ## Pseudo-events (30_encoding.md R85) -/

/-- `RXS b0 b1 ...` -/
def rxs (bs : List Byte) : List Event := bs.map Event.rx

/-- `WTXS i, b0 b1 ...` -/
def wtxs : Nat → List Byte → List Event
  | _, [] => []
  | i, b :: bs => evWtx i b :: wtxs (i + 1) bs

/-- `WRXS i, b0 b1 ...` -/
def wrxs : Nat → List Byte → List Event
  | _, [] => []
  | i, b :: bs => evWrx i b :: wrxs (i + 1) bs

/-- `EMIT×k` -/
def emits (k : Nat) : List Event := List.replicate k .emit

/-- `DRAIN` from a state: EMIT until `tx_busy == 0`. -/
def drain (s : State) : List Event := emits s.remaining.length

/-- `SEND x` from a state: write the frame, start it, drain it. A trace whose writes or start are not valid has no
drain. -/
def send (x : List Byte) (s : State) : List Event :=
  let start := wtxs 0 x ++ [evTxstart x.length]
  start ++ (match runTrace start s with
    | some t => drain t
    | none => [])

/-! ## What a run of the receive path stores and presents -/

/-- The values a receive class passes to STORE (40_receive.md R112): the stored byte for R104 too, nothing for R103. -/
def storedBy : Instr → List Byte
  | .rxStartData b | .rxData b | .rxEscBad b => [b]
  | .rxEscEnd => [END]
  | .rxEscEsc => [ESC]
  | .rxDiscard _ | .rxStartEnd | .rxEnd | .rxEsc | .rxErr => []
  | .txLead | .txTrail | .txEsc | .txData | .txCode => []
  | .ifup | .ifdown | .ack _ | .txstart _ | .wtx _ _ | .rtx _ | .wrx _ _ | .rrx _ | .status => []
  | .reserved0 | .reservedA | .reservedB | .reservedC | .reservedD | .reservedE | .reservedF => []

/-- The values passed to STORE along a trace, in order. -/
def storedAlong : List Event → State → List Byte
  | [], _ => []
  | e :: es, s =>
    match decode s.context e, deliver e s with
    | .ok i, .next t => storedBy i ++ storedAlong es t
    | _, _ => []

/-- Feed received bytes with the host answering every COMPLETE with `ACK 0` (40_receive.md R115): the frames presented,
in order, and the end state; none where an event is not enabled. -/
def feedReleasing : List Byte → State → Option (List (List Byte) × State)
  | [], s => some ([], s)
  | b :: bs, s =>
    match runTrace [.rx b] s with
    | none => none
    | some t =>
      if t.frameValid then
        match runTrace [evAck 0] t with
        | none => none
        | some u => (feedReleasing bs u).map fun r => (t.frame :: r.1, r.2)
      else feedReleasing bs t

/-! ## The host's duties as command scripts

The host is outside the block (60_exceptions.md R196); these are the commands its duties issue. -/

/-- The Receiver duty on a presented frame of length `n` (60_exceptions.md R197): read the status and the frame, then
release it, with the reply in place if there is one (R198). -/
def receiverDuty (n : Nat) (reply : List Byte) : List Event :=
  [evStatus] ++ (List.range n).map evRrx ++ wrxs 0 reply ++ [evAck reply.length]

end Sys2Proof.Machine
end

