-- ==== Sys2Proof/Machine/TraceText.lean ====
section
/-! DEFINITION. The written form of a trace (30_encoding.md R84), read from characters: one event a line. -/

namespace Sys2Proof.Machine

/-- The value of a hex digit. -/
def hexDigit (c : Char) : Option Nat :=
  let k := c.toNat
  if 48 ≤ k ∧ k ≤ 57 then some (k - 48)
  else if 65 ≤ k ∧ k ≤ 70 then some (k - 55)
  else if 97 ≤ k ∧ k ≤ 102 then some (k - 87)
  else none

/-- The value of a decimal digit. -/
def decDigit (c : Char) : Option Nat :=
  let k := c.toNat
  if 48 ≤ k ∧ k ≤ 57 then some (k - 48) else none

/-- `byte ::= two hex digits, optionally prefixed by 0x`. -/
def readByteText : List Char → Option Byte
  | [a, b] => do return BitVec.ofNat 8 (16 * (← hexDigit a) + (← hexDigit b))
  | ['0', 'x', a, b] => do return BitVec.ofNat 8 (16 * (← hexDigit a) + (← hexDigit b))
  | _ => none

/-- Decimal digits after the value `acc`. -/
def readDigits : Nat → List Char → Option Nat
  | acc, [] => some acc
  | acc, c :: cs => do readDigits (10 * acc + (← decDigit c)) cs

/-- `nat ::= decimal digits`. -/
def readNatText : List Char → Option Nat
  | [] => none
  | c :: cs => readDigits 0 (c :: cs)

/-- A line up to its comment, which runs from `;` to the end of the line. -/
def stripComment : List Char → List Char := List.takeWhile (· ≠ ';')

/-- The words of a line: blanks separate words and a comma is a word of its own (DESIGN CHOICE, log 13). `acc` is the
word being read, reversed. -/
def words : List Char → List Char → List (List Char)
  | acc, [] => if acc.isEmpty then [] else [acc.reverse]
  | acc, c :: cs =>
    if c = ' ' ∨ c = '\t' then (if acc.isEmpty then words [] cs else acc.reverse :: words [] cs)
    else if c = ',' then
      (if acc.isEmpty then [','] :: words [] cs else acc.reverse :: [','] :: words [] cs)
    else words (c :: acc) cs

/-- The event a line's words write. -/
def eventOfWords : List (List Char) → Option Event
  | [['R', 'X'], b] => (readByteText b).map Event.rx
  | [['R', 'X', 'E', 'R', 'R']] => some .rxErr
  | [['E', 'M', 'I', 'T']] => some .emit
  | [['I', 'F', 'U', 'P']] => some evIfup
  | [['I', 'F', 'D', 'O', 'W', 'N']] => some evIfdown
  | [['A', 'C', 'K'], n] => (readNatText n).map evAck
  | [['T', 'X', 'S', 'T', 'A', 'R', 'T'], n] => (readNatText n).map evTxstart
  | [['W', 'T', 'X'], i, [','], b] => do return evWtx (← readNatText i) (← readByteText b)
  | [['R', 'T', 'X'], i] => (readNatText i).map evRtx
  | [['W', 'R', 'X'], i, [','], b] => do return evWrx (← readNatText i) (← readByteText b)
  | [['R', 'R', 'X'], i] => (readNatText i).map evRrx
  | [['S', 'T', 'A', 'T', 'U', 'S']] => some evStatus
  | _ => none

/-- A line: no event if it is blank or only a comment, else one event; none where it is no line of a trace. -/
def readLine (line : List Char) : Option (List Event) :=
  match words [] (stripComment line) with
  | [] => some []
  | ws => (eventOfWords ws).map fun e => [e]

/-- The lines of a text. `acc` is the line being read, reversed. -/
def lines : List Char → List Char → List (List Char)
  | acc, [] => [acc.reverse]
  | acc, c :: cs => if c = '\n' then acc.reverse :: lines [] cs else lines (c :: acc) cs

/-- The trace a text writes; none where a line is no line of a trace. -/
def readTrace (text : List Char) : Option (List Event) := (lines [] text).mapM readLine |>.map List.flatten

end Sys2Proof.Machine
end

