-- ==== Sys2Proof/Safety.lean ====
section
/-! DEFINITION. The invariants of the block, and the contract of a conforming host. -/

namespace Sys2Proof.Machine

/-- The invariants 1 to 7 of 10_state.md R35, with the form of the two buffers: canonical, and no index at or above CAP
(20_memory.md R50, R54). -/
structure State.Inv (s : State) : Prop where
  /-- R35 item 1 -/
  rxLen_le : s.rxLen ≤ s.cap
  /-- R35 item 2 -/
  handoff_nonempty : s.rxPhase = .handoff → 1 ≤ s.rxLen
  /-- R35 item 3 -/
  reply_iff : s.rxPhase = .reply ↔ s.encPhase ≠ .idle ∧ s.encSrc = .rxbuf
  /-- R35 item 4 -/
  reply_empty : s.rxPhase = .reply → s.rxLen = 0
  /-- R35 item 5 -/
  encIdx_le : s.encIdx ≤ s.encLen
  /-- R35 item 5 -/
  encLen_le : s.encLen ≤ s.cap
  /-- R35 item 6 -/
  esc2_code : s.encPhase = .esc2 → (s.encCode = ESC_END ∨ s.encCode = ESC_ESC) ∧ s.encIdx < s.encLen
  /-- R35 item 7 -/
  lead_first : s.encPhase = .lead → s.encIdx = 0
  /-- `rx_buf` is in canonical form -/
  rxBuf_wf : s.rxBuf.wf
  /-- `tx_buf` is in canonical form -/
  txBuf_wf : s.txBuf.wf
  /-- `rx_buf` lists no index at or above CAP -/
  rxBuf_within : s.rxBuf.within s.cap
  /-- `tx_buf` lists no index at or above CAP -/
  txBuf_within : s.txBuf.within s.cap

/-- What a conforming host keeps to, command by command (60_exceptions.md R205): RRX and WRX only while a frame is
presented and within the buffer, ACK only then and with a reply that fits, WTX only while the encoder is idle, only the
codes of R80. Port events are not the host's. -/
def State.conforming (s : State) : Instr → Bool
  | .rrx i | .wrx i _ => s.frameValid && s.indexOk i
  | .ack n => s.frameValid && s.lengthOk n
  | .wtx i _ => !s.txBusy && s.indexOk i
  | .rtx i => s.indexOk i
  | .txstart n => s.lengthOk n
  | .ifup | .ifdown | .status => true
  | .reserved0 | .reservedA | .reservedB | .reservedC | .reservedD | .reservedE | .reservedF => false
  | .rxDiscard _ | .rxStartEnd | .rxStartData _ | .rxEnd | .rxEsc | .rxData _ | .rxEscEnd | .rxEscEsc => true
  | .rxEscBad _ | .rxErr | .txLead | .txTrail | .txEsc | .txData | .txCode => true

end Sys2Proof.Machine
end

