-- ==== Sys2Proof/Certificates/Slice0/Obligations.lean ====
section
/-! DEFINITION. The statements for the provers. Each says which rule of the spec it formalises. -/

open Sys2Proof Sys2Proof.Machine

/-! ## The receive path -/

/-- 40_receive.md R100: when `RX b` is enabled, which class it is, and its outputs. -/
def Obligations.ReceiveStepDispatch : Prop :=
  ∀ (s : State) (b : Byte),
    (s.accepts (.rx b) = true ↔
      s.live = true ∧ (s.rxPhase = .start ∨ s.rxPhase = .body ∨ s.rxPhase = .escaped)) ∧
    (s.accepts (.rx b) = true →
      decode s.context (.rx b) = .ok
        (if s.up = false then .rxDiscard b
         else if s.rxPhase = .start then (if b = 0xC0#8 then .rxStartEnd else .rxStartData b)
         else if s.rxPhase = .body then
           (if b = 0xC0#8 then .rxEnd else if b = 0xDB#8 then .rxEsc else .rxData b)
         else (if b = 0xDC#8 then .rxEscEnd else if b = 0xDD#8 then .rxEscEsc else .rxEscBad b))) ∧
    (s.accepts (.rx b) = true →
      ∃ (t : State) (c : RxResult) (f : Bool), deliver (.rx b) s = .next t ∧
        t.outputs = s.outputs ++ [.received c f] ∧ t.fault = none ∧ t.refused = false ∧
        (f = true ↔ decode s.context (.rx b) = .ok (.rxEscBad b)) ∧
        (c = .complete ↔ t.rxPhase = .handoff)) ∧
    (rxResultCode .assembling = 0 ∧ rxResultCode .complete = 1 ∧ rxResultCode .discarded = 2)

/-- 40_receive.md R101: STORE below the capacity writes one byte and counts it; at the capacity it does nothing. -/
def Obligations.StoreWritesBelowCapacityOnly : Prop :=
  ∀ (s : State) (v : Byte), s.rxBuf.wf →
    (s.rxLen < s.cap →
      s.store v = { s with rxBuf := s.rxBuf.write s.rxLen v, rxLen := s.rxLen + 1 } ∧
      ∀ a, (s.store v).readByte .rxbuf a = if a = s.rxLen then v else s.readByte .rxbuf a) ∧
    (s.cap ≤ s.rxLen → s.store v = s)

/-- 40_receive.md R102. -/
def Obligations.RxDiscardLosesTheByteOnly : Prop :=
  ∀ (s : State) (b : Byte), s.live = true → s.up = false →
    (s.rxPhase = .start ∨ s.rxPhase = .body ∨ s.rxPhase = .escaped) →
    exec (.rxDiscard b) s = .next { s with outputs := s.outputs ++ [.received .discarded false] }

/-- 40_receive.md R103. -/
def Obligations.RxStartEndOpensAnEmptyFrame : Prop :=
  ∀ s : State, s.live = true → s.up = true → s.rxPhase = .start →
    exec .rxStartEnd s = .next
      { s with rxLen := 0, rxPhase := .body, outputs := s.outputs ++ [.received .assembling false] }

/-- 40_receive.md R104: any first byte but END is stored, ESC included. -/
def Obligations.RxStartDataStoresTheFirstByte : Prop :=
  ∀ (s : State) (b : Byte), s.live = true → s.up = true → s.rxPhase = .start → b ≠ 0xC0#8 →
    exec (.rxStartData b) s = .next
      { s with rxBuf := s.rxBuf.write 0 b, rxLen := 1, rxPhase := .body
               outputs := s.outputs ++ [.received .assembling false] } ∧
    0 < s.cap

/-- 40_receive.md R105: a frame with a byte completes, an END with nothing assembled is a keep-alive. -/
def Obligations.RxEndCompletesOrIsIgnored : Prop :=
  ∀ s : State, s.live = true → s.up = true → s.rxPhase = .body →
    (0 < s.rxLen → exec .rxEnd s = .next
      { s with rxPhase := .handoff, outputs := s.outputs ++ [.received .complete false] }) ∧
    (s.rxLen = 0 → exec .rxEnd s = .next { s with outputs := s.outputs ++ [.received .discarded false] })

/-- 40_receive.md R106. -/
def Obligations.RxEscOpensAnEscape : Prop :=
  ∀ s : State, s.live = true → s.up = true → s.rxPhase = .body →
    exec .rxEsc s = .next
      { s with rxPhase := .escaped, outputs := s.outputs ++ [.received .assembling false] }

/-- 40_receive.md R107: STORE(b), the phase kept. -/
def Obligations.RxDataStoresItsByte : Prop :=
  ∀ (s : State) (b : Byte), s.live = true → s.up = true → s.rxPhase = .body → b ≠ 0xC0#8 → b ≠ 0xDB#8 →
    (s.rxLen < s.cap → exec (.rxData b) s = .next
      { s with rxBuf := s.rxBuf.write s.rxLen b, rxLen := s.rxLen + 1
               outputs := s.outputs ++ [.received .assembling false] }) ∧
    (s.cap ≤ s.rxLen → exec (.rxData b) s = .next
      { s with outputs := s.outputs ++ [.received .assembling false] })

/-- 40_receive.md R108 and R109: an escape pair stores END or ESC and returns to BODY, at capacity too. -/
def Obligations.EscapePairStoresEndOrEsc : Prop :=
  ∀ s : State, s.live = true → s.up = true → s.rxPhase = .escaped →
    (s.rxLen < s.cap →
      exec .rxEscEnd s = .next
        { s with rxBuf := s.rxBuf.write s.rxLen 0xC0#8, rxLen := s.rxLen + 1, rxPhase := .body
                 outputs := s.outputs ++ [.received .assembling false] } ∧
      exec .rxEscEsc s = .next
        { s with rxBuf := s.rxBuf.write s.rxLen 0xDB#8, rxLen := s.rxLen + 1, rxPhase := .body
                 outputs := s.outputs ++ [.received .assembling false] }) ∧
    (s.cap ≤ s.rxLen →
      exec .rxEscEnd s = .next
        { s with rxPhase := .body, outputs := s.outputs ++ [.received .assembling false] } ∧
      exec .rxEscEsc s = .next
        { s with rxPhase := .body, outputs := s.outputs ++ [.received .assembling false] })

/-- 40_receive.md R110: any other byte after ESC, END and ESC included, is stored verbatim with `viol(1)`. -/
def Obligations.RxEscBadStoresVerbatim : Prop :=
  ∀ (s : State) (b : Byte), s.live = true → s.up = true → s.rxPhase = .escaped → b ≠ 0xDC#8 → b ≠ 0xDD#8 →
    (s.rxLen < s.cap → exec (.rxEscBad b) s = .next
      { s with rxBuf := s.rxBuf.write s.rxLen b, rxLen := s.rxLen + 1, rxPhase := .body
               outputs := s.outputs ++ [.received .assembling true] }) ∧
    (s.cap ≤ s.rxLen → exec (.rxEscBad b) s = .next
      { s with rxPhase := .body, outputs := s.outputs ++ [.received .assembling true] })

/-- 40_receive.md R111: RXERR fails the receive path, which takes no event from then on; EMIT and the host commands are as
enabled as before; IFUP does not leave FAILED, and the host's accesses to the receive buffer fault. -/
def Obligations.RxErrFailsTheReceivePath : Prop :=
  ∀ s : State,
    (s.accepts .rxErr = true ↔
      s.live = true ∧ (s.rxPhase = .start ∨ s.rxPhase = .body ∨ s.rxPhase = .escaped)) ∧
    (s.accepts .rxErr = true → exec .rxErr s = .next { s with rxPhase := .failed } ∧
      ∀ e, (e = .emit ∨ ∃ w, e = .command w) → ({ s with rxPhase := .failed } : State).accepts e = s.accepts e) ∧
    (s.rxPhase = .failed → s.accepts .rxErr = false ∧ ∀ b, s.accepts (.rx b) = false) ∧
    (s.live = true → s.rxPhase = .failed →
      (∃ t, exec .ifup s = .next t ∧ t.rxPhase = .failed) ∧
      ∀ i v, i < s.cap →
        exec (.wrx i v) s = .next { s with fault := some (.rxbufOwner .wrx .failed) } ∧
        exec (.rrx i) s = .next { s with fault := some (.rxbufOwner .rrx .failed) })

/-! ## The transmit path -/

/-- 41_transmit.md R130: when EMIT is enabled, which class it is, and that it emits one byte. The source index is at most
the length (10_state.md R35 item 5, which `Obligations.InvariantKeptByEveryStep` keeps). -/
def Obligations.EmissionDispatch : Prop :=
  ∀ s : State, s.encIdx ≤ s.encLen →
    (s.accepts .emit = true ↔ s.live = true ∧ s.encPhase ≠ .idle) ∧
    (s.accepts .emit = true →
      decode s.context .emit = .ok
        (if s.encPhase = .lead then .txLead
         else if s.encPhase = .data then
           (if s.encIdx = s.encLen then .txTrail
            else if s.src s.encIdx = 0xC0#8 ∨ s.src s.encIdx = 0xDB#8 then .txEsc else .txData)
         else .txCode)) ∧
    (s.accepts .emit = true →
      ∃ (t : State) (b : Byte), deliver .emit s = .next t ∧ t.outputs = s.outputs ++ [.emitted b] ∧
        t.fault = none ∧ t.refused = false)

/-- 41_transmit.md R132. -/
def Obligations.TxLeadEmitsEnd : Prop :=
  ∀ s : State, s.live = true → s.encPhase = .lead →
    exec .txLead s = .next { s with encPhase := .data, outputs := s.outputs ++ [.emitted 0xC0#8] }

/-- 41_transmit.md R133. -/
def Obligations.TxDataEmitsTheSourceByte : Prop :=
  ∀ s : State, s.live = true → s.encPhase = .data → s.encIdx < s.encLen →
    s.src s.encIdx ≠ 0xC0#8 → s.src s.encIdx ≠ 0xDB#8 →
    exec .txData s = .next
      { s with encIdx := s.encIdx + 1, outputs := s.outputs ++ [.emitted (s.src s.encIdx)] }

/-- 41_transmit.md R134: ESC goes out, the code of the pair is kept, the index stays. -/
def Obligations.TxEscEmitsEscAndKeepsTheCode : Prop :=
  ∀ s : State, s.live = true → s.encPhase = .data → s.encIdx < s.encLen →
    (s.src s.encIdx = 0xC0#8 → exec .txEsc s = .next
      { s with encCode := 0xDC#8, encPhase := .esc2, outputs := s.outputs ++ [.emitted 0xDB#8] }) ∧
    (s.src s.encIdx = 0xDB#8 → exec .txEsc s = .next
      { s with encCode := 0xDD#8, encPhase := .esc2, outputs := s.outputs ++ [.emitted 0xDB#8] })

/-- 41_transmit.md R135. -/
def Obligations.TxCodeEmitsTheCode : Prop :=
  ∀ s : State, s.live = true → s.encPhase = .esc2 →
    exec .txCode s = .next
      { s with encIdx := s.encIdx + 1, encPhase := .data, outputs := s.outputs ++ [.emitted s.encCode] }

/-- 41_transmit.md R136: the trailing END; a reply returns the receive buffer to the decoder. -/
def Obligations.TxTrailEndsTheFrame : Prop :=
  ∀ s : State, s.live = true → s.encPhase = .data → s.encIdx = s.encLen →
    (s.encSrc = .txbuf → exec .txTrail s = .next
      { s with encPhase := .idle, outputs := s.outputs ++ [.emitted 0xC0#8] }) ∧
    (s.encSrc = .rxbuf → exec .txTrail s = .next
      { s with encPhase := .idle, rxPhase := .start, outputs := s.outputs ++ [.emitted 0xC0#8] })

/-! ## The host commands -/

/-- 42_host.md R152. -/
def Obligations.IfupBringsTheInterfaceUp : Prop :=
  ∀ s : State, s.live = true →
    (s.up = true → exec .ifup s = .next { s with outputs := s.outputs ++ [.responded .ok] }) ∧
    (s.up = false → (s.rxPhase = .start ∨ s.rxPhase = .body ∨ s.rxPhase = .escaped) →
      exec .ifup s = .next
        { s with up := true, rxPhase := .start, rxLen := 0, outputs := s.outputs ++ [.responded .ok] }) ∧
    (s.up = false → (s.rxPhase = .handoff ∨ s.rxPhase = .reply ∨ s.rxPhase = .failed) →
      exec .ifup s = .next { s with up := true, outputs := s.outputs ++ [.responded .ok] })

/-- 42_host.md R153. -/
def Obligations.IfdownTakesTheInterfaceDown : Prop :=
  ∀ s : State, s.live = true →
    exec .ifdown s = .next { s with up := false, outputs := s.outputs ++ [.responded .ok] }

/-- 42_host.md R154: the hold, the two faults, the release, the dropped reply and the reply. -/
def Obligations.AckReleasesTheFrame : Prop :=
  ∀ (s : State) (n : Nat), s.live = true →
    (s.cap < n → exec (.ack n) s = .next { s with fault := some (.lenRange .ack n) }) ∧
    (n ≤ s.cap → s.rxPhase ≠ .handoff → exec (.ack n) s = .next { s with fault := some (.ackNoFrame .ack) }) ∧
    (n = 0 → s.rxPhase = .handoff → exec (.ack n) s = .next
      { s with rxLen := 0, rxPhase := .start, outputs := s.outputs ++ [.responded .ok] }) ∧
    (1 ≤ n → n ≤ s.cap → s.rxPhase = .handoff → s.up = false → exec (.ack n) s = .next
      { s with rxLen := 0, rxPhase := .start, outputs := s.outputs ++ [.responded .dropped] }) ∧
    (1 ≤ n → n ≤ s.cap → s.rxPhase = .handoff → s.up = true → s.encPhase = .idle → exec (.ack n) s = .next
      { s with rxLen := 0, rxPhase := .reply, encSrc := .rxbuf, encLen := n, encIdx := 0, encPhase := .lead
               outputs := s.outputs ++ [.responded .ok] }) ∧
    (1 ≤ n → n ≤ s.cap → s.rxPhase = .handoff → s.up = true → s.encPhase ≠ .idle →
      s.accepts (evAck n) = false ∧ exec (.ack n) s = .next s)

/-- 42_host.md R155: the hold, the fault, the drop while down and the start. -/
def Obligations.TxstartStartsTheEncoder : Prop :=
  ∀ (s : State) (n : Nat), s.live = true →
    (s.cap < n → exec (.txstart n) s = .next { s with fault := some (.lenRange .txstart n) }) ∧
    (n ≤ s.cap → s.up = false →
      exec (.txstart n) s = .next { s with outputs := s.outputs ++ [.responded .dropped] }) ∧
    (n ≤ s.cap → s.up = true → s.encPhase = .idle → exec (.txstart n) s = .next
      { s with encSrc := .txbuf, encLen := n, encIdx := 0, encPhase := .lead
               outputs := s.outputs ++ [.responded .ok] }) ∧
    (n ≤ s.cap → s.up = true → s.encPhase ≠ .idle →
      s.accepts (evTxstart n) = false ∧ exec (.txstart n) s = .next s)

/-- 42_host.md R156. -/
def Obligations.WtxWritesTheTransmitBuffer : Prop :=
  ∀ (s : State) (i : Nat) (v : Byte), s.live = true →
    (s.cap ≤ i → exec (.wtx i v) s = .next { s with fault := some (.indexRange .wtx i) }) ∧
    (i < s.cap → s.encPhase ≠ .idle → s.encSrc = .txbuf →
      exec (.wtx i v) s = .next { s with fault := some (.txbufOwner .wtx s.encPhase) }) ∧
    (i < s.cap → (s.encPhase = .idle ∨ s.encSrc = .rxbuf) → exec (.wtx i v) s = .next
      { s with txBuf := s.txBuf.write i v, outputs := s.outputs ++ [.responded .ok] })

/-- 42_host.md R157. -/
def Obligations.RtxReadsTheTransmitBuffer : Prop :=
  ∀ (s : State) (i : Nat), s.live = true →
    (s.cap ≤ i → exec (.rtx i) s = .next { s with fault := some (.indexRange .rtx i) }) ∧
    (i < s.cap → exec (.rtx i) s = .next
      { s with outputs := s.outputs ++ [.responded (.byte (s.txBuf.read i))] })

/-- 42_host.md R158. -/
def Obligations.WrxWritesTheReceiveBuffer : Prop :=
  ∀ (s : State) (i : Nat) (v : Byte), s.live = true →
    (s.cap ≤ i → exec (.wrx i v) s = .next { s with fault := some (.indexRange .wrx i) }) ∧
    (i < s.cap → s.rxPhase ≠ .handoff →
      exec (.wrx i v) s = .next { s with fault := some (.rxbufOwner .wrx s.rxPhase) }) ∧
    (i < s.cap → s.rxPhase = .handoff → exec (.wrx i v) s = .next
      { s with rxBuf := s.rxBuf.write i v, outputs := s.outputs ++ [.responded .ok] })

/-- 42_host.md R159. -/
def Obligations.RrxReadsTheReceiveBuffer : Prop :=
  ∀ (s : State) (i : Nat), s.live = true →
    (s.cap ≤ i → exec (.rrx i) s = .next { s with fault := some (.indexRange .rrx i) }) ∧
    (i < s.cap → s.rxPhase ≠ .handoff →
      exec (.rrx i) s = .next { s with fault := some (.rxbufOwner .rrx s.rxPhase) }) ∧
    (i < s.cap → s.rxPhase = .handoff → exec (.rrx i) s = .next
      { s with outputs := s.outputs ++ [.responded (.byte (s.rxBuf.read i))] })

/-- 42_host.md R160 with the layout and codes of 10_state.md R34, R24, R26 and R27: STATUS responds a snapshot of the
state before the step and changes nothing. -/
def Obligations.StatusRespondsTheStatusWord : Prop :=
  (∀ s : State, s.live = true → ∃ sw : BitVec 16,
    exec .status s = .next
      { s with outputs := s.outputs ++ [.responded (.record sw s.rxLen s.encLen s.encIdx)] } ∧
    sw.getLsbD 0 = s.up ∧
    sw.extractLsb' 1 3 = (match s.rxPhase with
      | .start => 0#3 | .body => 1#3 | .escaped => 2#3 | .handoff => 3#3 | .reply => 4#3 | .failed => 5#3) ∧
    sw.extractLsb' 4 2 = (match s.encPhase with | .idle => 0#2 | .lead => 1#2 | .data => 2#2 | .esc2 => 3#2) ∧
    sw.getLsbD 6 = (match s.encSrc with | .txbuf => false | .rxbuf => true) ∧
    sw.extractLsb' 7 9 = 0#9) ∧
  ∀ m : Nat, exec .status (State.resetWith m) = .next
    { State.resetWith m with outputs := [.responded (.record 0x0000#16 0 0 0)] }

/-- 30_encoding.md R82 and 60_exceptions.md R182: a reserved code sets the `refused` mark and changes nothing else, and no
event is enabled after it; the mark is never cleared. -/
def Obligations.ReservedCodesRefuseTheRun : Prop :=
  ∀ s : State, s.live = true → ∀ i : Instr,
    (i = .reserved0 ∨ i = .reservedA ∨ i = .reservedB ∨ i = .reservedC ∨ i = .reservedD ∨ i = .reservedE ∨
      i = .reservedF) →
    exec i s = .next { s with refused := true } ∧
    ∀ t : State, t.refused = true → (∀ e, t.accepts e = false) ∧ ∀ j u, exec j t = .next u → u.refused = true

/-- 30_encoding.md R80 and R82: every 4-bit code selects its row, with that row's operands, in every context. That the
fields which are no operand of the row are ignored is read from R81 (DEDUCED, log 14). -/
def Obligations.CommandCodesSelectTheirRows : Prop :=
  ∀ (c : DecodeContext) (n i : Nat) (v : Byte),
    decode c (.command ⟨0x0#4, n, i, v⟩) = .ok .reserved0 ∧
    decode c (.command ⟨0x1#4, n, i, v⟩) = .ok .ifup ∧
    decode c (.command ⟨0x2#4, n, i, v⟩) = .ok .ifdown ∧
    decode c (.command ⟨0x3#4, n, i, v⟩) = .ok (.ack n) ∧
    decode c (.command ⟨0x4#4, n, i, v⟩) = .ok (.txstart n) ∧
    decode c (.command ⟨0x5#4, n, i, v⟩) = .ok (.wtx i v) ∧
    decode c (.command ⟨0x6#4, n, i, v⟩) = .ok (.rtx i) ∧
    decode c (.command ⟨0x7#4, n, i, v⟩) = .ok (.wrx i v) ∧
    decode c (.command ⟨0x8#4, n, i, v⟩) = .ok (.rrx i) ∧
    decode c (.command ⟨0x9#4, n, i, v⟩) = .ok .status ∧
    decode c (.command ⟨0xA#4, n, i, v⟩) = .ok .reservedA ∧
    decode c (.command ⟨0xB#4, n, i, v⟩) = .ok .reservedB ∧
    decode c (.command ⟨0xC#4, n, i, v⟩) = .ok .reservedC ∧
    decode c (.command ⟨0xD#4, n, i, v⟩) = .ok .reservedD ∧
    decode c (.command ⟨0xE#4, n, i, v⟩) = .ok .reservedE ∧
    decode c (.command ⟨0xF#4, n, i, v⟩) = .ok .reservedF

/-! ## Encodings -/

/-- 30_encoding.md R76 and R79: the tables, read row by row with the first match winning, are the dispatch of
40_receive.md R100 and 41_transmit.md R130; the receive rows are exhaustive for the three phases that take bytes, and no
row takes a byte in another phase or an emission in IDLE. In DATA with `enc_idx > enc_len`, which no run reaches, R79 has no
row, and that EMIT is not enabled there is the model's choice (DESIGN CHOICE, log 9). -/
def Obligations.ClassTablesAgreeWithDispatch : Prop :=
  ∀ (c : DecodeContext) (b : Byte),
    (decode c (.rx b)).toOption = rxByRows c b ∧ (decode c .emit).toOption = txByRows c ∧
    ((rxByRows c b).isSome = true ↔ c.rxPhase = .start ∨ c.rxPhase = .body ∨ c.rxPhase = .escaped) ∧
    (c.encPhase = .idle → txByRows c = none)

/-- Decode and encode agree: a well-formed instruction's event decodes to it in every context that selects it, of which
there is one, and whatever decodes is well formed, selected, and encodes to the event again, less what is not part of it
(30_encoding.md R76, R79, R80, R81). -/
def Obligations.DecodeEncodeRoundTrip : Prop :=
  (∀ i : Instr, i.wf = true → (∃ c, selects c i = true) ∧ ∀ c, selects c i = true → decode c (encode i) = .ok i) ∧
  (∀ (c : DecodeContext) (e : Event) (i : Instr), decode c e = .ok i →
    i.wf = true ∧ selects c i = true ∧ encode i = e.operandsOnly)

/-- Sample encodings of each family, from 30_encoding.md R76, R79 and R80. -/
def Obligations.SampleEncodingsDecode : Prop :=
  decode ⟨true, .start, .idle, 0, 0, 0#8⟩ (.rx 0b11000000#8) = .ok .rxStartEnd ∧
  decode ⟨true, .start, .idle, 0, 0, 0#8⟩ (.rx 0b11011011#8) = .ok (.rxStartData 0xDB#8) ∧
  decode ⟨true, .body, .idle, 0, 0, 0#8⟩ (.rx 0b11000000#8) = .ok .rxEnd ∧
  decode ⟨true, .body, .idle, 0, 0, 0#8⟩ (.rx 0b11011011#8) = .ok .rxEsc ∧
  decode ⟨true, .escaped, .idle, 0, 0, 0#8⟩ (.rx 0b11011100#8) = .ok .rxEscEnd ∧
  decode ⟨true, .escaped, .idle, 0, 0, 0#8⟩ (.rx 0b11000000#8) = .ok (.rxEscBad 0xC0#8) ∧
  decode ⟨false, .escaped, .idle, 0, 0, 0#8⟩ (.rx 0b11011101#8) = .ok (.rxDiscard 0xDD#8) ∧
  decode ⟨true, .start, .data, 1, 2, 0xC0#8⟩ .emit = .ok .txEsc ∧
  decode ⟨true, .start, .data, 2, 2, 0xC0#8⟩ .emit = .ok .txTrail ∧
  decode ⟨true, .start, .idle, 0, 0, 0#8⟩ (.command ⟨0b0111#4, 0, 3, 0x45#8⟩) = .ok (.wrx 3 0x45#8)

/-! ## Steps, marks, holds -/

/-- A step runs the decoded event: the agent whose turn it is has its oldest event taken and its instruction executed, if
it is enabled, and otherwise only the turn is used up. How turns are given is the model's choice (logs 1, 5 and 6). -/
def Obligations.StepRunsTheDecodedEvent : Prop :=
  ∀ (s : State) (a : Agent) (rest : List Agent) (e : Event), s.live = true → s.schedule = a :: rest →
    s.offer a = some e →
    (∀ i, decode s.context e = .ok i → s.enabled i = true →
      step s = exec i (({ s with schedule := rest } : State).take a)) ∧
    (s.accepts e = false → step s = .next { s with schedule := rest })

/-- 10_state.md R39: the run marks are clear at reset, and no instruction and no event clears one. -/
def Obligations.RunMarksAreNeverCleared : Prop :=
  (State.reset.fault = none ∧ State.reset.refused = false) ∧
  (∀ (i : Instr) (s t : State), exec i s = .next t →
    (∀ f, s.fault = some f → t.fault = some f) ∧ (s.refused = true → t.refused = true)) ∧
  ∀ (e : Event) (s t : State), deliver e s = .next t →
    (∀ f, s.fault = some f → t.fault = some f) ∧ (s.refused = true → t.refused = true)

/-- From a marked state no event is enabled and nothing runs (60_exceptions.md R181, R182). That the step then answers the
fault or the refusal is the model's reading (log 4). -/
def Obligations.MarkedRunIsOver : Prop :=
  ∀ s : State,
    (∀ f, s.fault = some f → step s = .fault f) ∧
    (s.fault = none → s.refused = true → step s = .refused .reservedCommand) ∧
    (s.live = false → (∀ e, s.accepts e = false) ∧ ∀ i, exec i s = .next s)

/-- The fault table of 60_exceptions.md R181: which instructions raise which fault when, that nothing but the mark changes,
and that a command is checked in the order of R190. That a command is recorded by its name is the model's reading
(log 11). -/
def Obligations.FaultsAreThoseOfTheTable : Prop :=
  ∀ (i : Instr) (s t : State) (f : Fault), s.live = true → exec i s = .next t → t.fault = some f →
    t = { s with fault := some f } ∧
    ((faultCode f = 1 ∧ f = .ackNoFrame .ack ∧ s.rxPhase ≠ .handoff ∧ ∃ n, n ≤ s.cap ∧ i = .ack n) ∨
     (faultCode f = 2 ∧ ∃ n, s.cap < n ∧
       ((i = .ack n ∧ f = .lenRange .ack n) ∨ (i = .txstart n ∧ f = .lenRange .txstart n))) ∨
     (faultCode f = 3 ∧ ∃ k, s.cap ≤ k ∧
       ((∃ v, i = .wtx k v ∧ f = .indexRange .wtx k) ∨ (i = .rtx k ∧ f = .indexRange .rtx k) ∨
        (∃ v, i = .wrx k v ∧ f = .indexRange .wrx k) ∨ (i = .rrx k ∧ f = .indexRange .rrx k))) ∨
     (faultCode f = 4 ∧ s.rxPhase ≠ .handoff ∧ ∃ k, k < s.cap ∧
       ((∃ v, i = .wrx k v ∧ f = .rxbufOwner .wrx s.rxPhase) ∨ (i = .rrx k ∧ f = .rxbufOwner .rrx s.rxPhase))) ∨
     (faultCode f = 5 ∧ s.encPhase ≠ .idle ∧ s.encSrc = .txbuf ∧ f = .txbufOwner .wtx s.encPhase ∧
       ∃ k v, k < s.cap ∧ i = .wtx k v))

/-- The hold table of 60_exceptions.md R183, with the stuck receive path of R184: exactly these events hold while no run
mark is set, and a held event changes nothing. -/
def Obligations.HoldsAreThoseOfTheTable : Prop :=
  ∀ (s : State) (e : Event), s.live = true → s.encIdx ≤ s.encLen →
    (s.accepts e = false ↔
      (((∃ b, e = .rx b) ∨ e = .rxErr) ∧
        (s.rxPhase = .handoff ∨ s.rxPhase = .reply ∨ s.rxPhase = .failed)) ∨
      (e = .emit ∧ s.encPhase = .idle) ∨
      (∃ w, e = .command w ∧ s.up = true ∧ s.encPhase ≠ .idle ∧ w.n ≤ s.cap ∧
        ((w.op = 0x3#4 ∧ 1 ≤ w.n ∧ s.rxPhase = .handoff) ∨ w.op = 0x4#4))) ∧
    (s.accepts e = false → deliver e s = .next s)

/-- 60_exceptions.md R205: a command a conforming host issues, and every port event, leaves both run marks clear. -/
def Obligations.ConformingHostNeverFaults : Prop :=
  ∀ (i : Instr) (s t : State), s.live = true → s.conforming i = true → exec i s = .next t → t.live = true

/-! ## Reset and the whole machine -/

/-- 70_reset_and_hazards.md R210, for every MAXPKT. -/
def Obligations.ResetValues : Prop :=
  (∀ m : Nat,
    (State.resetWith m).up = false ∧ (State.resetWith m).rxLen = 0 ∧ (State.resetWith m).rxPhase = .start ∧
    (State.resetWith m).encPhase = .idle ∧ (State.resetWith m).encSrc = .txbuf ∧ (State.resetWith m).encLen = 0 ∧
    (State.resetWith m).encIdx = 0 ∧ (State.resetWith m).encCode = 0x00#8 ∧ (State.resetWith m).fault = none ∧
    (State.resetWith m).refused = false ∧ (State.resetWith m).cap = m + 2 ∧
    ∀ sp a, (State.resetWith m).readByte sp a = 0x00#8) ∧
  State.reset = State.resetWith Config.maxpkt

/-- The invariants hold at reset, for every MAXPKT (10_state.md R35; 20_memory.md R50). -/
def Obligations.InvariantHoldsAtReset : Prop :=
  State.reset.Inv ∧ ∀ m : Nat, (State.resetWith m).Inv

/-- 10_state.md R35 items 1 to 7, and the canonical form of the buffers with no index at or above CAP: every step keeps
them. -/
def Obligations.InvariantKeptByEveryStep : Prop :=
  ∀ s t : State, s.Inv → step s = .next t → t.Inv

/-- 10_state.md R35 item 8: a handoff begins only while the interface is up, and with a frame that is not empty. -/
def Obligations.HandoffBeginsOnlyWhileUp : Prop :=
  ∀ s t : State, step s = .next t → s.rxPhase ≠ .handoff → t.rxPhase = .handoff →
    s.up = true ∧ t.up = true ∧ 1 ≤ t.rxLen ∧ t.frame = s.frame

/-- The writers of every field, as 10_state.md R21 to R30 list them; MAXPKT and the agents' pending events are written by
no instruction. -/
def Obligations.FieldsAreWrittenByTheirWritersOnly : Prop :=
  ∀ (i : Instr) (s t : State), exec i s = .next t →
    (t.up ≠ s.up → i = .ifup ∨ i = .ifdown) ∧
    (t.rxBuf ≠ s.rxBuf → (∃ b, i = .rxStartData b ∨ i = .rxData b ∨ i = .rxEscBad b) ∨ i = .rxEscEnd ∨
      i = .rxEscEsc ∨ ∃ k v, i = .wrx k v) ∧
    (t.rxLen ≠ s.rxLen → (∃ b, i = .rxStartData b ∨ i = .rxData b ∨ i = .rxEscBad b) ∨ i = .rxStartEnd ∨
      i = .rxEscEnd ∨ i = .rxEscEsc ∨ i = .ifup ∨ ∃ n, i = .ack n) ∧
    (t.rxPhase ≠ s.rxPhase → (∃ b, i = .rxStartData b ∨ i = .rxEscBad b) ∨ i = .rxStartEnd ∨ i = .rxEnd ∨
      i = .rxEsc ∨ i = .rxEscEnd ∨ i = .rxEscEsc ∨ i = .rxErr ∨ i = .txTrail ∨ i = .ifup ∨ ∃ n, i = .ack n) ∧
    (t.txBuf ≠ s.txBuf → ∃ k v, i = .wtx k v) ∧
    (t.encPhase ≠ s.encPhase → i = .txLead ∨ i = .txTrail ∨ i = .txEsc ∨ i = .txCode ∨
      ∃ n, i = .ack n ∨ i = .txstart n) ∧
    (t.encSrc ≠ s.encSrc → ∃ n, i = .ack n ∨ i = .txstart n) ∧
    (t.encLen ≠ s.encLen → ∃ n, i = .ack n ∨ i = .txstart n) ∧
    (t.encIdx ≠ s.encIdx → i = .txData ∨ i = .txCode ∨ ∃ n, i = .ack n ∨ i = .txstart n) ∧
    (t.encCode ≠ s.encCode → i = .txEsc) ∧
    (t.maxpkt = s.maxpkt ∧ t.rxPort = s.rxPort ∧ t.txTakes = s.txTakes ∧ t.hostPort = s.hostPort ∧
      t.schedule = s.schedule)

/-- The frame of memory for every instruction: every byte but the one at its store address reads as before, and that byte,
where the instruction takes effect without a fault, reads as the value stored (40_receive.md R101, R104; 42_host.md R156,
R158; 20_memory.md R59). -/
def Obligations.OnlyTheStoredByteChanges : Prop :=
  ∀ (i : Instr) (s t : State), exec i s = .next t →
    (∀ sp a, s.storeAddress i ≠ some (sp, a) → t.readByte sp a = s.readByte sp a) ∧
    (s.rxBuf.wf → s.txBuf.wf → s.enabled i = true → t.fault = none →
      ∀ sp a, s.storeAddress i = some (sp, a) →
        (∀ v, (i = .rxStartData v ∨ i = .rxData v ∨ i = .rxEscBad v ∨ i = .wtx a v ∨ i = .wrx a v) →
          t.readByte sp a = v) ∧
        (i = .rxEscEnd → t.readByte sp a = 0xC0#8) ∧
        (i = .rxEscEsc → t.readByte sp a = 0xDB#8))

/-- 20_memory.md R59: a host write is what the host reads back, in both buffers. -/
def Obligations.HostReadsBackWhatItWrote : Prop :=
  ∀ (s : State) (i : Nat) (v : Byte), s.live = true → i < s.cap → s.rxBuf.wf → s.txBuf.wf →
    ((s.encPhase = .idle ∨ s.encSrc = .rxbuf) → ∃ t, runTrace [evWtx i v, evRtx i] s = some t ∧
      t.outputs = s.outputs ++ [.responded .ok, .responded (.byte v)]) ∧
    (s.rxPhase = .handoff → ∃ t, runTrace [evWrx i v, evRrx i] s = some t ∧
      t.outputs = s.outputs ++ [.responded .ok, .responded (.byte v)])

/-- 60_exceptions.md R184 and 70_reset_and_hazards.md R212: no step leaves FAILED. -/
def Obligations.FailedIsNeverLeft : Prop :=
  ∀ s t : State, s.Inv → step s = .next t → s.rxPhase = .failed → t.rxPhase = .failed

/-- A valid trace is a run of the machine: with the trace as the agents' pending events and its order as the schedule, as
many steps end in the trace's end state (30_encoding.md R84; 00_scope.md R9). -/
def Obligations.ValidTraceIsARun : Prop :=
  ∀ (es : List Event) (s t : State), s.rxPort = [] → s.txTakes = 0 → s.hostPort = [] → s.schedule = [] →
    runTrace es s = some t → Host.Core.run Sys2Proof.core es.length (s.load es) = .next t

/-! ## Laws of the transmit path -/

/-- 30_encoding.md R74. -/
def Obligations.WireLength : Prop :=
  ∀ x : List Byte,
    (wireEncode x).length = x.length + 2 + x.countP (fun b => b == 0xC0#8 || b == 0xDB#8) ∧
    x.length + 2 ≤ (wireEncode x).length ∧ (wireEncode x).length ≤ 2 * x.length + 2 ∧
    wireEncode [] = [0xC0#8, 0xC0#8]

/-- 41_transmit.md R139: END occurs first and last and nowhere else, and every ESC is followed by ESC_END or ESC_ESC. -/
def Obligations.WireOutputGuarantee : Prop :=
  ∀ x : List Byte,
    (wireEncode x).count 0xC0#8 = 2 ∧ (wireEncode x).head? = some 0xC0#8 ∧
    (wireEncode x).getLast? = some 0xC0#8 ∧
    ∀ k, (wireEncode x)[k]? = some 0xDB#8 →
      (wireEncode x)[k + 1]? = some 0xDC#8 ∨ (wireEncode x)[k + 1]? = some 0xDD#8

/-- 41_transmit.md R131 with 20_memory.md R57 and R58: while the encoder is busy no step changes the frame it is on, which
is read from the buffer `enc_src` names. -/
def Obligations.FrameUnderEncodeIsNotDisturbed : Prop :=
  ∀ s t : State, s.Inv → s.encPhase ≠ .idle → step s = .next t →
    t.encSrc = s.encSrc ∧ t.encLen = s.encLen ∧ t.sourceFrame = s.sourceFrame ∧
    ∀ k, k < s.encLen → t.src k = s.src k ∧ s.src k = (if s.encSrc = .txbuf then s.txBuf.read k else s.rxBuf.read k)

/-- 41_transmit.md R137, over every interleaving: a step that emits emits the next byte that remains, a step that does not
emit leaves what remains while the encoder is busy, and an encode starts with the whole wire form of its frame. -/
def Obligations.EncoderEmitsWhatRemains : Prop :=
  ∀ s t : State, s.Inv → step s = .next t →
    (∀ b, t.outputs = s.outputs ++ [.emitted b] → s.remaining = b :: t.remaining) ∧
    (s.encPhase ≠ .idle → (∀ b, t.outputs ≠ s.outputs ++ [.emitted b]) → t.remaining = s.remaining) ∧
    (s.encPhase = .idle → t.encPhase ≠ .idle → t.remaining = wireEncode t.sourceFrame)

/-- 41_transmit.md R137: from LEAD, the EMIT steps to the next IDLE are as many as the wire form is long, at most
2·CAP + 2, and emit exactly it. -/
def Obligations.EmittedSequenceIsTheWireForm : Prop :=
  ∀ s : State, s.Inv → s.live = true → s.encPhase = .lead →
    (∃ t, runTrace (emits (wireEncode s.sourceFrame).length) s = some t ∧ t.encPhase = .idle ∧
      t.outputs = s.outputs ++ (wireEncode s.sourceFrame).map Output.emitted) ∧
    (∀ k u, k < (wireEncode s.sourceFrame).length → runTrace (emits k) s = some u → u.encPhase ≠ .idle) ∧
    (wireEncode s.sourceFrame).length ≤ 2 * s.cap + 2

/-- 41_transmit.md R140: an emission step does the same whatever `UP` is, and IFUP and IFDOWN leave the encoder alone. -/
def Obligations.UpHasNoEffectOnAnEncode : Prop :=
  (∀ (s t : State) (u : Bool), deliver .emit s = .next t →
    deliver .emit { s with up := u } = .next { t with up := u }) ∧
  (∀ (s t : State) (i : Instr), (i = .ifup ∨ i = .ifdown) → exec i s = .next t →
    t.encPhase = s.encPhase ∧ t.encSrc = s.encSrc ∧ t.encLen = s.encLen ∧ t.encIdx = s.encIdx ∧
    t.encCode = s.encCode ∧ t.remaining = s.remaining)

/-- `SEND x` (30_encoding.md R85; 60_exceptions.md R200) from an idle encoder with the interface up: every write and the
start are answered OK, and then the wire form of `x` is emitted. -/
def Obligations.SendTransmitsTheFrame : Prop :=
  ∀ (x : List Byte) (s : State), s.live = true → s.up = true → s.encPhase = .idle → s.txBuf.wf → x.length ≤ s.cap →
    ∃ t, runTrace (send x s) s = some t ∧ t.encPhase = .idle ∧
      t.outputs = s.outputs ++ List.replicate (x.length + 1) (.responded .ok) ++
        (wireEncode x).map Output.emitted

/-! ## Laws of the receive path -/

/-- 40_receive.md R114: the round trip, with its preconditions and its three cases. -/
def Obligations.ReceiveRoundTrip : Prop :=
  ∀ (x : List Byte) (s : State), s.live = true → s.up = true → s.rxBuf.wf →
    (s.rxPhase = .start ∨ (s.rxPhase = .body ∧ s.rxLen = 0)) →
    ∃ (t : State) (os : List Output), runTrace (rxs (wireEncode x)) s = some t ∧
      (∀ o ∈ os, o = .received .assembling false ∨ o = .received .discarded false) ∧
      (1 ≤ x.length → x.length ≤ s.cap → t.frame = x) ∧
      (1 ≤ x.length → t.rxPhase = .handoff ∧ t.frame = x.take s.cap ∧
        t.outputs = s.outputs ++ os ++ [.received .complete false]) ∧
      (x = [] → t.rxPhase = .body ∧ t.rxLen = 0 ∧
        t.outputs = s.outputs ++ os ++ [.received .discarded false])

/-- 40_receive.md R112 and R113: the frame presented is the values passed to STORE, cut to CAP, over any trace from a frame
boundary with no IFUP, and no command that releases or rewrites a presented frame. The invariants, which
`Obligations.InvariantKeptByEveryStep` keeps, rule out a reply under encode in START, whose trailing END would cut the frame
in two (10_state.md R35 item 3). -/
def Obligations.FrameContent : Prop :=
  ∀ (es : List Event) (s t : State), s.Inv → s.rxPhase = .start → s.rxLen = 0 →
    (∀ w, Event.command w ∈ es → w.op ≠ 0x1#4 ∧ w.op ≠ 0x3#4 ∧ w.op ≠ 0x7#4) →
    runTrace es s = some t → t.rxPhase = .handoff →
    t.frame = (storedAlong es s).take s.cap ∧ t.rxLen = min (storedAlong es s).length s.cap ∧ 1 ≤ t.rxLen

/-- 40_receive.md R115: the resynchronisation table, the host answering every COMPLETE with `ACK 0`. -/
def Obligations.Resynchronisation : Prop :=
  ∀ (x1 x2 : List Byte) (s : State), s.live = true → s.up = true → s.rxBuf.wf → s.rxLen ≤ s.cap →
    1 ≤ x2.length → x2.length ≤ s.cap →
    ((s.rxPhase = .start ∨ (s.rxPhase = .body ∧ s.rxLen = 0)) →
      ∃ t, feedReleasing (wireEncode x1 ++ wireEncode x2) s =
        some ((if x1 = [] then [] else [x1.take s.cap]) ++ [x2], t)) ∧
    (s.rxPhase = .body → 0 < s.rxLen → x1 = [] →
      ∃ t, feedReleasing (wireEncode x1 ++ wireEncode x2) s = some ([s.frame, x2], t)) ∧
    (s.rxPhase = .body → 0 < s.rxLen → ∀ b r, x1 = b :: r →
      ∃ t, feedReleasing (wireEncode x1 ++ wireEncode x2) s = some ([s.frame,
        (if b = 0xC0#8 then [0xDB#8, 0xDC#8] ++ r else if b = 0xDB#8 then [0xDB#8, 0xDD#8] ++ r else x1).take s.cap,
        x2], t)) ∧
    (s.rxPhase = .escaped →
      (∃ t, feedReleasing (wireEncode x1 ++ wireEncode x2) s =
        some ([(s.frame ++ [0xC0#8] ++ x1).take s.cap, x2], t)) ∧
      ∃ t, runTrace [.rx 0xC0#8] s = some t ∧ t.outputs = s.outputs ++ [.received .assembling true])

/-- 40_receive.md R116: a COMPLETE never presents an empty frame, and no number of ENDs presents one. -/
def Obligations.NoEmptyFrame : Prop :=
  (∀ (b : Byte) (s t : State) (f : Bool), deliver (.rx b) s = .next t →
    t.outputs = s.outputs ++ [.received .complete f] → t.rxPhase = .handoff ∧ 1 ≤ t.frame.length) ∧
  (∀ (k : Nat) (s : State), s.live = true → s.up = true →
    (s.rxPhase = .start ∨ (s.rxPhase = .body ∧ s.rxLen = 0)) →
    ∃ (t : State) (os : List Output), runTrace (rxs (List.replicate k 0xC0#8)) s = some t ∧
      t.rxPhase ≠ .handoff ∧ t.outputs = s.outputs ++ os ∧ ∀ f, Output.received .complete f ∉ os)

/-- 40_receive.md R117: bytes while down are discarded with the length kept, and IFUP restarts at an empty frame. -/
def Obligations.DownAndUpDropsThePartialFrame : Prop :=
  ∀ (bs : List Byte) (s : State), s.live = true → (s.rxPhase = .body ∨ s.rxPhase = .escaped) →
    ∃ t u, runTrace (evIfdown :: rxs bs) s = some t ∧ t.rxLen = s.rxLen ∧ t.rxPhase = s.rxPhase ∧
      t.rxBuf = s.rxBuf ∧
      t.outputs = s.outputs ++ .responded .ok :: List.replicate bs.length (.received .discarded false) ∧
      runTrace [evIfup] t = some u ∧ u.up = true ∧ u.rxPhase = .start ∧ u.rxLen = 0

/-- The Receiver duty of 60_exceptions.md R197 on a presented frame with the encoder idle: it reads exactly the frame, no
command faults, and the frame is released, or its reply, if one is sent, is what the encoder is given (R198). -/
def Obligations.ReceiverDutyTakesTheFrame : Prop :=
  ∀ (reply : List Byte) (s : State), s.live = true → s.Inv → s.rxPhase = .handoff → s.encPhase = .idle →
    reply.length ≤ s.cap →
    ∃ t, runTrace (receiverDuty s.rxLen reply) s = some t ∧ t.live = true ∧ t.rxLen = 0 ∧
      t.outputs = s.outputs ++ [.responded s.statusRecord] ++ s.frame.map (fun b => .responded (.byte b)) ++
        List.replicate reply.length (.responded .ok) ++
        [.responded (if reply = [] ∨ s.up = true then .ok else .dropped)] ∧
      ((reply = [] ∨ s.up = false) → t.rxPhase = .start ∧ t.encPhase = .idle) ∧
      (reply ≠ [] → s.up = true → t.rxPhase = .reply ∧ t.encPhase = .lead ∧ t.sourceFrame = reply)

/-! ## The block -/

/-- 10_state.md R20: the block's state is the ten fields and the run marks, and nothing else. Whether an event is enabled, the
block after it and its outputs depend on the block and MAXPKT alone, and an event changes nothing outside the block but
the record of outputs. What else State holds is the model's choice (logs 1, 2 and 3). -/
def Obligations.BlockAndEventDecideTheStep : Prop :=
  ∀ (e : Event) (s t : State), s.toBlock = t.toBlock → s.maxpkt = t.maxpkt →
    s.accepts e = t.accepts e ∧
    ∃ (b : Block) (os : List Output),
      deliver e s = .next { s with toBlock := b, outputs := s.outputs ++ os } ∧
      deliver e t = .next { t with toBlock := b, outputs := t.outputs ++ os }
end

