-- ==== Sys2Proof/Laws/State.lean ====
section
/-! SUPPORT. One lemma per field per update of the state, true by rfl, and one per derived signal. -/

namespace Sys2Proof.Machine

/-! ## The block: what leaves it alone -/

@[simp] theorem State.result_toBlock (s : State) (c : RxResult) (f : Bool) : (s.result c f).toBlock = s.toBlock := rfl
@[simp] theorem State.emit_toBlock (s : State) (b : Byte) : (s.emit b).toBlock = s.toBlock := rfl
@[simp] theorem State.respond_toBlock (s : State) (r : Response) : (s.respond r).toBlock = s.toBlock := rfl
@[simp] theorem State.take_toBlock (s : State) (a : Agent) : (s.take a).toBlock = s.toBlock := by cases a <;> rfl
@[simp] theorem State.resetWith_toBlock (m : Nat) : (State.resetWith m).toBlock = Block.reset := rfl

/-! ## `State.result` -/

@[simp] theorem State.result_up (s : State) (c : RxResult) (f : Bool) : (s.result c f).up = s.up := rfl
@[simp] theorem State.result_rxBuf (s : State) (c : RxResult) (f : Bool) : (s.result c f).rxBuf = s.rxBuf := rfl
@[simp] theorem State.result_rxLen (s : State) (c : RxResult) (f : Bool) : (s.result c f).rxLen = s.rxLen := rfl
@[simp] theorem State.result_rxPhase (s : State) (c : RxResult) (f : Bool) : (s.result c f).rxPhase = s.rxPhase := rfl
@[simp] theorem State.result_txBuf (s : State) (c : RxResult) (f : Bool) : (s.result c f).txBuf = s.txBuf := rfl
@[simp] theorem State.result_encPhase (s : State) (c : RxResult) (f : Bool) : (s.result c f).encPhase = s.encPhase := rfl
@[simp] theorem State.result_encSrc (s : State) (c : RxResult) (f : Bool) : (s.result c f).encSrc = s.encSrc := rfl
@[simp] theorem State.result_encLen (s : State) (c : RxResult) (f : Bool) : (s.result c f).encLen = s.encLen := rfl
@[simp] theorem State.result_encIdx (s : State) (c : RxResult) (f : Bool) : (s.result c f).encIdx = s.encIdx := rfl
@[simp] theorem State.result_encCode (s : State) (c : RxResult) (f : Bool) : (s.result c f).encCode = s.encCode := rfl
@[simp] theorem State.result_fault (s : State) (c : RxResult) (f : Bool) : (s.result c f).fault = s.fault := rfl
@[simp] theorem State.result_refused (s : State) (c : RxResult) (f : Bool) : (s.result c f).refused = s.refused := rfl
@[simp] theorem State.result_maxpkt (s : State) (c : RxResult) (f : Bool) : (s.result c f).maxpkt = s.maxpkt := rfl
@[simp] theorem State.result_rxPort (s : State) (c : RxResult) (f : Bool) : (s.result c f).rxPort = s.rxPort := rfl
@[simp] theorem State.result_txTakes (s : State) (c : RxResult) (f : Bool) : (s.result c f).txTakes = s.txTakes := rfl
@[simp] theorem State.result_hostPort (s : State) (c : RxResult) (f : Bool) : (s.result c f).hostPort = s.hostPort := rfl
@[simp] theorem State.result_schedule (s : State) (c : RxResult) (f : Bool) : (s.result c f).schedule = s.schedule := rfl
@[simp] theorem State.result_outputs (s : State) (c : RxResult) (f : Bool) : (s.result c f).outputs = s.outputs ++ [.received c f] := rfl

/-! ## `State.emit` -/

@[simp] theorem State.emit_up (s : State) (b : Byte) : (s.emit b).up = s.up := rfl
@[simp] theorem State.emit_rxBuf (s : State) (b : Byte) : (s.emit b).rxBuf = s.rxBuf := rfl
@[simp] theorem State.emit_rxLen (s : State) (b : Byte) : (s.emit b).rxLen = s.rxLen := rfl
@[simp] theorem State.emit_rxPhase (s : State) (b : Byte) : (s.emit b).rxPhase = s.rxPhase := rfl
@[simp] theorem State.emit_txBuf (s : State) (b : Byte) : (s.emit b).txBuf = s.txBuf := rfl
@[simp] theorem State.emit_encPhase (s : State) (b : Byte) : (s.emit b).encPhase = s.encPhase := rfl
@[simp] theorem State.emit_encSrc (s : State) (b : Byte) : (s.emit b).encSrc = s.encSrc := rfl
@[simp] theorem State.emit_encLen (s : State) (b : Byte) : (s.emit b).encLen = s.encLen := rfl
@[simp] theorem State.emit_encIdx (s : State) (b : Byte) : (s.emit b).encIdx = s.encIdx := rfl
@[simp] theorem State.emit_encCode (s : State) (b : Byte) : (s.emit b).encCode = s.encCode := rfl
@[simp] theorem State.emit_fault (s : State) (b : Byte) : (s.emit b).fault = s.fault := rfl
@[simp] theorem State.emit_refused (s : State) (b : Byte) : (s.emit b).refused = s.refused := rfl
@[simp] theorem State.emit_maxpkt (s : State) (b : Byte) : (s.emit b).maxpkt = s.maxpkt := rfl
@[simp] theorem State.emit_rxPort (s : State) (b : Byte) : (s.emit b).rxPort = s.rxPort := rfl
@[simp] theorem State.emit_txTakes (s : State) (b : Byte) : (s.emit b).txTakes = s.txTakes := rfl
@[simp] theorem State.emit_hostPort (s : State) (b : Byte) : (s.emit b).hostPort = s.hostPort := rfl
@[simp] theorem State.emit_schedule (s : State) (b : Byte) : (s.emit b).schedule = s.schedule := rfl
@[simp] theorem State.emit_outputs (s : State) (b : Byte) : (s.emit b).outputs = s.outputs ++ [.emitted b] := rfl

/-! ## `State.respond` -/

@[simp] theorem State.respond_up (s : State) (r : Response) : (s.respond r).up = s.up := rfl
@[simp] theorem State.respond_rxBuf (s : State) (r : Response) : (s.respond r).rxBuf = s.rxBuf := rfl
@[simp] theorem State.respond_rxLen (s : State) (r : Response) : (s.respond r).rxLen = s.rxLen := rfl
@[simp] theorem State.respond_rxPhase (s : State) (r : Response) : (s.respond r).rxPhase = s.rxPhase := rfl
@[simp] theorem State.respond_txBuf (s : State) (r : Response) : (s.respond r).txBuf = s.txBuf := rfl
@[simp] theorem State.respond_encPhase (s : State) (r : Response) : (s.respond r).encPhase = s.encPhase := rfl
@[simp] theorem State.respond_encSrc (s : State) (r : Response) : (s.respond r).encSrc = s.encSrc := rfl
@[simp] theorem State.respond_encLen (s : State) (r : Response) : (s.respond r).encLen = s.encLen := rfl
@[simp] theorem State.respond_encIdx (s : State) (r : Response) : (s.respond r).encIdx = s.encIdx := rfl
@[simp] theorem State.respond_encCode (s : State) (r : Response) : (s.respond r).encCode = s.encCode := rfl
@[simp] theorem State.respond_fault (s : State) (r : Response) : (s.respond r).fault = s.fault := rfl
@[simp] theorem State.respond_refused (s : State) (r : Response) : (s.respond r).refused = s.refused := rfl
@[simp] theorem State.respond_maxpkt (s : State) (r : Response) : (s.respond r).maxpkt = s.maxpkt := rfl
@[simp] theorem State.respond_rxPort (s : State) (r : Response) : (s.respond r).rxPort = s.rxPort := rfl
@[simp] theorem State.respond_txTakes (s : State) (r : Response) : (s.respond r).txTakes = s.txTakes := rfl
@[simp] theorem State.respond_hostPort (s : State) (r : Response) : (s.respond r).hostPort = s.hostPort := rfl
@[simp] theorem State.respond_schedule (s : State) (r : Response) : (s.respond r).schedule = s.schedule := rfl
@[simp] theorem State.respond_outputs (s : State) (r : Response) : (s.respond r).outputs = s.outputs ++ [.responded r] := rfl

/-! ## `State.raise` -/

@[simp] theorem State.raise_up (s : State) (f : Fault) : (s.raise f).up = s.up := rfl
@[simp] theorem State.raise_rxBuf (s : State) (f : Fault) : (s.raise f).rxBuf = s.rxBuf := rfl
@[simp] theorem State.raise_rxLen (s : State) (f : Fault) : (s.raise f).rxLen = s.rxLen := rfl
@[simp] theorem State.raise_rxPhase (s : State) (f : Fault) : (s.raise f).rxPhase = s.rxPhase := rfl
@[simp] theorem State.raise_txBuf (s : State) (f : Fault) : (s.raise f).txBuf = s.txBuf := rfl
@[simp] theorem State.raise_encPhase (s : State) (f : Fault) : (s.raise f).encPhase = s.encPhase := rfl
@[simp] theorem State.raise_encSrc (s : State) (f : Fault) : (s.raise f).encSrc = s.encSrc := rfl
@[simp] theorem State.raise_encLen (s : State) (f : Fault) : (s.raise f).encLen = s.encLen := rfl
@[simp] theorem State.raise_encIdx (s : State) (f : Fault) : (s.raise f).encIdx = s.encIdx := rfl
@[simp] theorem State.raise_encCode (s : State) (f : Fault) : (s.raise f).encCode = s.encCode := rfl
@[simp] theorem State.raise_fault (s : State) (f : Fault) : (s.raise f).fault = some f := rfl
@[simp] theorem State.raise_refused (s : State) (f : Fault) : (s.raise f).refused = s.refused := rfl
@[simp] theorem State.raise_maxpkt (s : State) (f : Fault) : (s.raise f).maxpkt = s.maxpkt := rfl
@[simp] theorem State.raise_rxPort (s : State) (f : Fault) : (s.raise f).rxPort = s.rxPort := rfl
@[simp] theorem State.raise_txTakes (s : State) (f : Fault) : (s.raise f).txTakes = s.txTakes := rfl
@[simp] theorem State.raise_hostPort (s : State) (f : Fault) : (s.raise f).hostPort = s.hostPort := rfl
@[simp] theorem State.raise_schedule (s : State) (f : Fault) : (s.raise f).schedule = s.schedule := rfl
@[simp] theorem State.raise_outputs (s : State) (f : Fault) : (s.raise f).outputs = s.outputs := rfl

/-! ## `State.refuse` -/

@[simp] theorem State.refuse_up (s : State) : s.refuse.up = s.up := rfl
@[simp] theorem State.refuse_rxBuf (s : State) : s.refuse.rxBuf = s.rxBuf := rfl
@[simp] theorem State.refuse_rxLen (s : State) : s.refuse.rxLen = s.rxLen := rfl
@[simp] theorem State.refuse_rxPhase (s : State) : s.refuse.rxPhase = s.rxPhase := rfl
@[simp] theorem State.refuse_txBuf (s : State) : s.refuse.txBuf = s.txBuf := rfl
@[simp] theorem State.refuse_encPhase (s : State) : s.refuse.encPhase = s.encPhase := rfl
@[simp] theorem State.refuse_encSrc (s : State) : s.refuse.encSrc = s.encSrc := rfl
@[simp] theorem State.refuse_encLen (s : State) : s.refuse.encLen = s.encLen := rfl
@[simp] theorem State.refuse_encIdx (s : State) : s.refuse.encIdx = s.encIdx := rfl
@[simp] theorem State.refuse_encCode (s : State) : s.refuse.encCode = s.encCode := rfl
@[simp] theorem State.refuse_fault (s : State) : s.refuse.fault = s.fault := rfl
@[simp] theorem State.refuse_refused (s : State) : s.refuse.refused = true := rfl
@[simp] theorem State.refuse_maxpkt (s : State) : s.refuse.maxpkt = s.maxpkt := rfl
@[simp] theorem State.refuse_rxPort (s : State) : s.refuse.rxPort = s.rxPort := rfl
@[simp] theorem State.refuse_txTakes (s : State) : s.refuse.txTakes = s.txTakes := rfl
@[simp] theorem State.refuse_hostPort (s : State) : s.refuse.hostPort = s.hostPort := rfl
@[simp] theorem State.refuse_schedule (s : State) : s.refuse.schedule = s.schedule := rfl
@[simp] theorem State.refuse_outputs (s : State) : s.refuse.outputs = s.outputs := rfl

/-! ## `State.startEncode` -/

@[simp] theorem State.startEncode_up (s : State) (x : EncSrc) (n : Nat) : (s.startEncode x n).up = s.up := rfl
@[simp] theorem State.startEncode_rxBuf (s : State) (x : EncSrc) (n : Nat) : (s.startEncode x n).rxBuf = s.rxBuf := rfl
@[simp] theorem State.startEncode_rxLen (s : State) (x : EncSrc) (n : Nat) : (s.startEncode x n).rxLen = s.rxLen := rfl
@[simp] theorem State.startEncode_rxPhase (s : State) (x : EncSrc) (n : Nat) : (s.startEncode x n).rxPhase = s.rxPhase := rfl
@[simp] theorem State.startEncode_txBuf (s : State) (x : EncSrc) (n : Nat) : (s.startEncode x n).txBuf = s.txBuf := rfl
@[simp] theorem State.startEncode_encPhase (s : State) (x : EncSrc) (n : Nat) : (s.startEncode x n).encPhase = .lead := rfl
@[simp] theorem State.startEncode_encSrc (s : State) (x : EncSrc) (n : Nat) : (s.startEncode x n).encSrc = x := rfl
@[simp] theorem State.startEncode_encLen (s : State) (x : EncSrc) (n : Nat) : (s.startEncode x n).encLen = n := rfl
@[simp] theorem State.startEncode_encIdx (s : State) (x : EncSrc) (n : Nat) : (s.startEncode x n).encIdx = 0 := rfl
@[simp] theorem State.startEncode_encCode (s : State) (x : EncSrc) (n : Nat) : (s.startEncode x n).encCode = s.encCode := rfl
@[simp] theorem State.startEncode_fault (s : State) (x : EncSrc) (n : Nat) : (s.startEncode x n).fault = s.fault := rfl
@[simp] theorem State.startEncode_refused (s : State) (x : EncSrc) (n : Nat) : (s.startEncode x n).refused = s.refused := rfl
@[simp] theorem State.startEncode_maxpkt (s : State) (x : EncSrc) (n : Nat) : (s.startEncode x n).maxpkt = s.maxpkt := rfl
@[simp] theorem State.startEncode_rxPort (s : State) (x : EncSrc) (n : Nat) : (s.startEncode x n).rxPort = s.rxPort := rfl
@[simp] theorem State.startEncode_txTakes (s : State) (x : EncSrc) (n : Nat) : (s.startEncode x n).txTakes = s.txTakes := rfl
@[simp] theorem State.startEncode_hostPort (s : State) (x : EncSrc) (n : Nat) : (s.startEncode x n).hostPort = s.hostPort := rfl
@[simp] theorem State.startEncode_schedule (s : State) (x : EncSrc) (n : Nat) : (s.startEncode x n).schedule = s.schedule := rfl
@[simp] theorem State.startEncode_outputs (s : State) (x : EncSrc) (n : Nat) : (s.startEncode x n).outputs = s.outputs := rfl

/-! ## `State.take`: only the agent's own pending events change -/

@[simp] theorem State.take_up (s : State) (a : Agent) : (s.take a).up = s.up := by cases a <;> rfl
@[simp] theorem State.take_rxBuf (s : State) (a : Agent) : (s.take a).rxBuf = s.rxBuf := by cases a <;> rfl
@[simp] theorem State.take_rxLen (s : State) (a : Agent) : (s.take a).rxLen = s.rxLen := by cases a <;> rfl
@[simp] theorem State.take_rxPhase (s : State) (a : Agent) : (s.take a).rxPhase = s.rxPhase := by cases a <;> rfl
@[simp] theorem State.take_txBuf (s : State) (a : Agent) : (s.take a).txBuf = s.txBuf := by cases a <;> rfl
@[simp] theorem State.take_encPhase (s : State) (a : Agent) : (s.take a).encPhase = s.encPhase := by cases a <;> rfl
@[simp] theorem State.take_encSrc (s : State) (a : Agent) : (s.take a).encSrc = s.encSrc := by cases a <;> rfl
@[simp] theorem State.take_encLen (s : State) (a : Agent) : (s.take a).encLen = s.encLen := by cases a <;> rfl
@[simp] theorem State.take_encIdx (s : State) (a : Agent) : (s.take a).encIdx = s.encIdx := by cases a <;> rfl
@[simp] theorem State.take_encCode (s : State) (a : Agent) : (s.take a).encCode = s.encCode := by cases a <;> rfl
@[simp] theorem State.take_fault (s : State) (a : Agent) : (s.take a).fault = s.fault := by cases a <;> rfl
@[simp] theorem State.take_refused (s : State) (a : Agent) : (s.take a).refused = s.refused := by cases a <;> rfl
@[simp] theorem State.take_maxpkt (s : State) (a : Agent) : (s.take a).maxpkt = s.maxpkt := by cases a <;> rfl
@[simp] theorem State.take_schedule (s : State) (a : Agent) : (s.take a).schedule = s.schedule := by cases a <;> rfl
@[simp] theorem State.take_outputs (s : State) (a : Agent) : (s.take a).outputs = s.outputs := by cases a <;> rfl

/-! ## `State.writeByte`: only the space's buffer changes -/

@[simp] theorem State.writeByte_up (s : State) (sp : Space) (a : Nat) (v : Byte) : (s.writeByte sp a v).up = s.up := by
  cases sp <;> rfl
@[simp] theorem State.writeByte_rxLen (s : State) (sp : Space) (a : Nat) (v : Byte) : (s.writeByte sp a v).rxLen = s.rxLen := by
  cases sp <;> rfl
@[simp] theorem State.writeByte_rxPhase (s : State) (sp : Space) (a : Nat) (v : Byte) : (s.writeByte sp a v).rxPhase = s.rxPhase := by
  cases sp <;> rfl
@[simp] theorem State.writeByte_encPhase (s : State) (sp : Space) (a : Nat) (v : Byte) : (s.writeByte sp a v).encPhase = s.encPhase := by
  cases sp <;> rfl
@[simp] theorem State.writeByte_encSrc (s : State) (sp : Space) (a : Nat) (v : Byte) : (s.writeByte sp a v).encSrc = s.encSrc := by
  cases sp <;> rfl
@[simp] theorem State.writeByte_encLen (s : State) (sp : Space) (a : Nat) (v : Byte) : (s.writeByte sp a v).encLen = s.encLen := by
  cases sp <;> rfl
@[simp] theorem State.writeByte_encIdx (s : State) (sp : Space) (a : Nat) (v : Byte) : (s.writeByte sp a v).encIdx = s.encIdx := by
  cases sp <;> rfl
@[simp] theorem State.writeByte_encCode (s : State) (sp : Space) (a : Nat) (v : Byte) : (s.writeByte sp a v).encCode = s.encCode := by
  cases sp <;> rfl
@[simp] theorem State.writeByte_fault (s : State) (sp : Space) (a : Nat) (v : Byte) : (s.writeByte sp a v).fault = s.fault := by
  cases sp <;> rfl
@[simp] theorem State.writeByte_refused (s : State) (sp : Space) (a : Nat) (v : Byte) : (s.writeByte sp a v).refused = s.refused := by
  cases sp <;> rfl
@[simp] theorem State.writeByte_maxpkt (s : State) (sp : Space) (a : Nat) (v : Byte) : (s.writeByte sp a v).maxpkt = s.maxpkt := by
  cases sp <;> rfl
@[simp] theorem State.writeByte_rxPort (s : State) (sp : Space) (a : Nat) (v : Byte) : (s.writeByte sp a v).rxPort = s.rxPort := by
  cases sp <;> rfl
@[simp] theorem State.writeByte_txTakes (s : State) (sp : Space) (a : Nat) (v : Byte) : (s.writeByte sp a v).txTakes = s.txTakes := by
  cases sp <;> rfl
@[simp] theorem State.writeByte_hostPort (s : State) (sp : Space) (a : Nat) (v : Byte) : (s.writeByte sp a v).hostPort = s.hostPort := by
  cases sp <;> rfl
@[simp] theorem State.writeByte_schedule (s : State) (sp : Space) (a : Nat) (v : Byte) : (s.writeByte sp a v).schedule = s.schedule := by
  cases sp <;> rfl
@[simp] theorem State.writeByte_outputs (s : State) (sp : Space) (a : Nat) (v : Byte) : (s.writeByte sp a v).outputs = s.outputs := by
  cases sp <;> rfl
@[simp] theorem State.writeByte_rxBuf (s : State) (a : Nat) (v : Byte) :
    (s.writeByte .rxbuf a v).rxBuf = s.rxBuf.write a v := rfl
@[simp] theorem State.writeByte_rx_txBuf (s : State) (a : Nat) (v : Byte) :
    (s.writeByte .rxbuf a v).txBuf = s.txBuf := rfl
@[simp] theorem State.writeByte_txBuf (s : State) (a : Nat) (v : Byte) :
    (s.writeByte .txbuf a v).txBuf = s.txBuf.write a v := rfl
@[simp] theorem State.writeByte_tx_rxBuf (s : State) (a : Nat) (v : Byte) :
    (s.writeByte .txbuf a v).rxBuf = s.rxBuf := rfl

/-! ## `State.store`: only `rxBuf` and `rxLen` change -/

/-- STORE below the capacity (40_receive.md R101). -/
theorem State.store_below {s : State} (v : Byte) (h : s.rxLen < s.cap) :
    s.store v = { s.writeByte .rxbuf s.rxLen v with rxLen := s.rxLen + 1 } := by
  simp [State.store, State.storeIndex, h]

/-- STORE at the capacity (40_receive.md R101). -/
theorem State.store_full {s : State} (v : Byte) (h : s.cap ≤ s.rxLen) : s.store v = s := by
  simp [State.store, State.storeIndex, Nat.not_lt.2 h]

@[simp] theorem State.store_up (s : State) (v : Byte) : (s.store v).up = s.up := by
  unfold State.store; split <;> simp
@[simp] theorem State.store_rxPhase (s : State) (v : Byte) : (s.store v).rxPhase = s.rxPhase := by
  unfold State.store; split <;> simp
@[simp] theorem State.store_txBuf (s : State) (v : Byte) : (s.store v).txBuf = s.txBuf := by
  unfold State.store; split <;> simp
@[simp] theorem State.store_encPhase (s : State) (v : Byte) : (s.store v).encPhase = s.encPhase := by
  unfold State.store; split <;> simp
@[simp] theorem State.store_encSrc (s : State) (v : Byte) : (s.store v).encSrc = s.encSrc := by
  unfold State.store; split <;> simp
@[simp] theorem State.store_encLen (s : State) (v : Byte) : (s.store v).encLen = s.encLen := by
  unfold State.store; split <;> simp
@[simp] theorem State.store_encIdx (s : State) (v : Byte) : (s.store v).encIdx = s.encIdx := by
  unfold State.store; split <;> simp
@[simp] theorem State.store_encCode (s : State) (v : Byte) : (s.store v).encCode = s.encCode := by
  unfold State.store; split <;> simp
@[simp] theorem State.store_fault (s : State) (v : Byte) : (s.store v).fault = s.fault := by
  unfold State.store; split <;> simp
@[simp] theorem State.store_refused (s : State) (v : Byte) : (s.store v).refused = s.refused := by
  unfold State.store; split <;> simp
@[simp] theorem State.store_maxpkt (s : State) (v : Byte) : (s.store v).maxpkt = s.maxpkt := by
  unfold State.store; split <;> simp
@[simp] theorem State.store_rxPort (s : State) (v : Byte) : (s.store v).rxPort = s.rxPort := by
  unfold State.store; split <;> simp
@[simp] theorem State.store_txTakes (s : State) (v : Byte) : (s.store v).txTakes = s.txTakes := by
  unfold State.store; split <;> simp
@[simp] theorem State.store_hostPort (s : State) (v : Byte) : (s.store v).hostPort = s.hostPort := by
  unfold State.store; split <;> simp
@[simp] theorem State.store_schedule (s : State) (v : Byte) : (s.store v).schedule = s.schedule := by
  unfold State.store; split <;> simp
@[simp] theorem State.store_outputs (s : State) (v : Byte) : (s.store v).outputs = s.outputs := by
  unfold State.store; split <;> simp

/-! ## `State.cap` and the reset state -/

theorem State.cap_eq (s : State) : s.cap = s.maxpkt + 2 := rfl

theorem State.two_le_cap (s : State) : 2 ≤ s.cap := by simp [State.cap]

theorem State.reset_eq : State.reset = State.resetWith Config.maxpkt := rfl

/-! ## `State.live` -/

theorem State.live_iff (s : State) : s.live = true ↔ s.fault = none ∧ s.refused = false := by
  simp [State.live, Option.isNone_iff_eq_none]

end Sys2Proof.Machine
end

