-- ==== Sys2Proof/Laws/Enable.lean ====
section
/-! SUPPORT. What a meaning can do: its effect where it is enabled, nothing where it holds. -/

namespace Sys2Proof.Machine

/-- An enabled instruction runs its body. -/
theorem whenEnabled_of_enabled {i : Instr} {s : State} {body : State → State} (h : s.enabled i = true) :
    whenEnabled i s body = .next (body s) := by simp [whenEnabled, h]

/-- An instruction that is not enabled holds. -/
theorem whenEnabled_of_held {i : Instr} {s : State} {body : State → State} (h : s.enabled i = false) :
    whenEnabled i s body = .next s := by simp [whenEnabled, h]

/-- What can come of it. -/
theorem whenEnabled_cases {i : Instr} {s t : State} {body : State → State} (h : whenEnabled i s body = .next t) :
    (s.enabled i = true ∧ t = body s) ∨ (s.enabled i = false ∧ t = s) := by
  unfold whenEnabled at h
  split at h <;> cases h
  · exact .inl ⟨by assumption, rfl⟩
  · exact .inr ⟨by simp_all, rfl⟩

/-- What an enabled instruction makes of the state: the bodies of the meanings, side by side. -/
def effect (s : State) : Instr → State
  | .rxDiscard _ => s.result .discarded false
  | .rxStartEnd => { s with rxLen := 0, rxPhase := .body }.result .assembling false
  | .rxStartData b => { s.writeByte .rxbuf 0 b with rxLen := 1, rxPhase := .body }.result .assembling false
  | .rxEnd =>
    if 0 < s.rxLen then { s with rxPhase := .handoff }.result .complete false else s.result .discarded false
  | .rxEsc => { s with rxPhase := .escaped }.result .assembling false
  | .rxData b => (s.store b).result .assembling false
  | .rxEscEnd => { s.store END with rxPhase := .body }.result .assembling false
  | .rxEscEsc => { s.store ESC with rxPhase := .body }.result .assembling false
  | .rxEscBad b => { s.store b with rxPhase := .body }.result .assembling true
  | .rxErr => { s with rxPhase := .failed }
  | .txLead => { s with encPhase := .data }.emit END
  | .txTrail =>
    { s with encPhase := .idle, rxPhase := if s.encSrc = EncSrc.rxbuf then .start else s.rxPhase }.emit END
  | .txEsc =>
    { s with encCode := if s.src s.encIdx = END then ESC_END else ESC_ESC, encPhase := .esc2 }.emit ESC
  | .txData => { s with encIdx := s.encIdx + 1 }.emit (s.src s.encIdx)
  | .txCode => { s with encIdx := s.encIdx + 1, encPhase := .data }.emit s.encCode
  | .ifup =>
    (if s.up then s
      else if s.rxReady then { s with up := true, rxPhase := .start, rxLen := 0 }
      else { s with up := true }).respond .ok
  | .ifdown => { s with up := false }.respond .ok
  | .ack n =>
    if !s.lengthOk n then s.raise (.lenRange .ack n)
    else if !s.frameValid then s.raise (.ackNoFrame .ack)
    else if n = 0 then { s with rxLen := 0, rxPhase := .start }.respond .ok
    else if !s.up then { s with rxLen := 0, rxPhase := .start }.respond .dropped
    else ({ s with rxLen := 0, rxPhase := .reply }.startEncode .rxbuf n).respond .ok
  | .txstart n =>
    if !s.lengthOk n then s.raise (.lenRange .txstart n)
    else if !s.up then s.respond .dropped
    else (s.startEncode .txbuf n).respond .ok
  | .wtx i v =>
    if !s.indexOk i then s.raise (.indexRange .wtx i)
    else if s.txBufOwned then s.raise (.txbufOwner .wtx s.encPhase)
    else (s.writeByte .txbuf i v).respond .ok
  | .rtx i =>
    if !s.indexOk i then s.raise (.indexRange .rtx i) else s.respond (.byte (s.readByte .txbuf i))
  | .wrx i v =>
    if !s.indexOk i then s.raise (.indexRange .wrx i)
    else if !s.frameValid then s.raise (.rxbufOwner .wrx s.rxPhase)
    else (s.writeByte .rxbuf i v).respond .ok
  | .rrx i =>
    if !s.indexOk i then s.raise (.indexRange .rrx i)
    else if !s.frameValid then s.raise (.rxbufOwner .rrx s.rxPhase)
    else s.respond (.byte (s.readByte .rxbuf i))
  | .status => s.respond s.statusRecord
  | .reserved0 | .reservedA | .reservedB | .reservedC | .reservedD | .reservedE | .reservedF => s.refuse

/-- Every meaning is its effect where it is enabled. -/
theorem exec_eq_whenEnabled (i : Instr) (s : State) : exec i s = whenEnabled i s fun s => effect s i := by
  cases i <;> rfl

/-- An enabled instruction takes effect. -/
theorem exec_of_enabled {i : Instr} {s : State} (h : s.enabled i = true) : exec i s = .next (effect s i) := by
  rw [exec_eq_whenEnabled, whenEnabled_of_enabled h]

/-- An instruction that is not enabled changes nothing. -/
theorem exec_of_held {i : Instr} {s : State} (h : s.enabled i = false) : exec i s = .next s := by
  rw [exec_eq_whenEnabled, whenEnabled_of_held h]

/-- What executing an instruction can come to. -/
theorem exec_cases {i : Instr} {s t : State} (h : exec i s = .next t) :
    (s.enabled i = true ∧ t = effect s i) ∨ (s.enabled i = false ∧ t = s) := by
  rw [exec_eq_whenEnabled] at h
  exact whenEnabled_cases h

/-- An instruction always answers a next state. -/
theorem exec_next (i : Instr) (s : State) : ∃ t, exec i s = .next t := by
  cases h : s.enabled i
  · exact ⟨s, exec_of_held h⟩
  · exact ⟨effect s i, exec_of_enabled h⟩

/-- Enabledness, taken apart. -/
theorem State.enabled_iff (s : State) (i : Instr) :
    s.enabled i = true ↔ s.live = true ∧ selects s.context i = true ∧ s.busyHold i = false := by
  simp [State.enabled, and_assoc]

@[simp] theorem State.context_up (s : State) : s.context.up = s.up := rfl
@[simp] theorem State.context_rxPhase (s : State) : s.context.rxPhase = s.rxPhase := rfl
@[simp] theorem State.context_encPhase (s : State) : s.context.encPhase = s.encPhase := rfl
@[simp] theorem State.context_encIdx (s : State) : s.context.encIdx = s.encIdx := rfl
@[simp] theorem State.context_encLen (s : State) : s.context.encLen = s.encLen := rfl
@[simp] theorem State.context_src (s : State) : s.context.src = s.src s.encIdx := rfl

end Sys2Proof.Machine
end

