-- ==== Sys2Proof/Laws/Memory.lean ====
section
/-! SUPPORT. The byte memory: read after write, and the canonical form is kept. -/

namespace Sys2Proof.Machine

theorem Memory.wf_nil : Memory.wf [] := by simp [Memory.wf]

theorem Memory.within_nil (cap : Nat) : Memory.within cap [] := by simp [Memory.within]

@[simp] theorem Memory.read_nil (a : Nat) : Memory.read [] a = Memory.unlisted := rfl

theorem Memory.wf_tail {c : Host.Cell} {m : Memory} (h : Memory.wf (c :: m)) : Memory.wf m :=
  ⟨(List.pairwise_cons.1 h.1).2, fun d hd => h.2 d (List.mem_cons_of_mem _ hd)⟩

/-- An index below every listed one is unlisted. -/
theorem Memory.read_below {m : Memory} {a : Nat} (h : ∀ c ∈ m, a < c.1) : m.read a = Memory.unlisted := by
  induction m with
  | nil => rfl
  | cons c m ih =>
    obtain ⟨k, x⟩ := c
    have hk : a < k := h (k, x) (by simp)
    simp only [Memory.read, if_neg (Nat.ne_of_lt hk)]
    exact ih fun d hd => h d (List.mem_cons_of_mem _ hd)

/-- A write leaves every other index alone. -/
theorem Memory.read_write_other {m : Memory} {a b : Nat} {v : Byte} (hab : b ≠ a) :
    (m.write a v).read b = m.read b := by
  induction m with
  | nil => unfold Memory.write; split <;> simp [Memory.read, hab]
  | cons c m ih =>
    obtain ⟨k, x⟩ := c
    unfold Memory.write
    split
    · split <;> simp [Memory.read, hab]
    · split
      · next h1 h2 => subst h2; split <;> simp [Memory.read, hab]
      · simp [Memory.read, ih]

/-- A read after a write to the same index gives the value written. -/
theorem Memory.read_write_same {m : Memory} {a : Nat} {v : Byte} (hm : m.wf) : (m.write a v).read a = v := by
  induction m with
  | nil => unfold Memory.write; split <;> simp_all [Memory.read]
  | cons c m ih =>
    obtain ⟨k, x⟩ := c
    have hlt : ∀ d ∈ m, k < d.1 := (List.pairwise_cons.1 hm.1).1
    unfold Memory.write
    split
    · next h =>
      split
      · next hv => rw [hv]; exact Memory.read_below (by simpa using ⟨h, fun y z hd => Nat.lt_trans h (hlt _ hd)⟩)
      · simp [Memory.read]
    · split
      · next h2 =>
        subst h2
        split
        · next hv => rw [hv]; exact Memory.read_below hlt
        · simp [Memory.read]
      · next h2 => simp [Memory.read, h2, ih (Memory.wf_tail hm)]

/-- What a write lists: its own index with the value, or what was listed. -/
theorem Memory.mem_write {m : Memory} {a : Nat} {v : Byte} {c : Host.Cell} (h : c ∈ m.write a v) :
    (c = (a, v) ∧ v ≠ Memory.unlisted) ∨ c ∈ m := by
  induction m with
  | nil => unfold Memory.write at h; split at h <;> simp_all
  | cons d m ih =>
    obtain ⟨k, x⟩ := d
    unfold Memory.write at h
    split at h
    · split at h <;> simp_all
    · split at h
      · split at h
        · exact .inr (List.mem_cons_of_mem _ h)
        · rcases List.mem_cons.1 h with h | h
          · exact .inl ⟨h, by assumption⟩
          · exact .inr (List.mem_cons_of_mem _ h)
      · rcases List.mem_cons.1 h with h | h
        · exact .inr (by simp [h])
        · exact (ih h).imp_right (List.mem_cons_of_mem _)

/-- A write keeps the canonical form. -/
theorem Memory.write_wf {m : Memory} {a : Nat} {v : Byte} (hm : m.wf) : (m.write a v).wf := by
  refine ⟨?_, fun c hc => ?_⟩
  · induction m with
    | nil => unfold Memory.write; split <;> simp
    | cons c m ih =>
      obtain ⟨k, x⟩ := c
      have hc := List.pairwise_cons.1 hm.1
      unfold Memory.write
      split
      · next h =>
        split
        · exact hm.1
        · exact List.pairwise_cons.2 ⟨by simpa using ⟨h, fun y z hd => Nat.lt_trans h (hc.1 _ hd)⟩, hm.1⟩
      · split
        · next h2 =>
          subst h2
          split
          · exact hc.2
          · exact List.pairwise_cons.2 ⟨hc.1, hc.2⟩
        · next h1 h2 =>
          refine List.pairwise_cons.2 ⟨fun d hd => ?_, ih (Memory.wf_tail hm)⟩
          rcases Memory.mem_write hd with ⟨rfl, -⟩ | hd
          · show k < a; omega
          · exact hc.1 d hd
  · rcases Memory.mem_write hc with ⟨rfl, hv⟩ | hc
    · exact hv
    · exact hm.2 c hc

/-- A write below the capacity lists no index at or above it. -/
theorem Memory.write_within {m : Memory} {a cap : Nat} {v : Byte} (hm : m.within cap) (ha : a < cap) :
    (m.write a v).within cap := by
  intro c hc
  rcases Memory.mem_write hc with ⟨rfl, -⟩ | hc
  · exact ha
  · exact hm c hc

end Sys2Proof.Machine
end

