-- ==== Sys2Proof/Laws/Ops.lean ====
section
/-! SUPPORT. The buffers through the state's operations: reads after a write and after STORE, the canonical form kept, and
the lengths of the frames. -/

namespace Sys2Proof.Machine

/-! ## CAP depends on MAXPKT alone -/

@[simp] theorem State.result_cap (s : State) (c : RxResult) (f : Bool) : (s.result c f).cap = s.cap := rfl
@[simp] theorem State.emit_cap (s : State) (b : Byte) : (s.emit b).cap = s.cap := rfl
@[simp] theorem State.respond_cap (s : State) (r : Response) : (s.respond r).cap = s.cap := rfl
@[simp] theorem State.raise_cap (s : State) (f : Fault) : (s.raise f).cap = s.cap := rfl
@[simp] theorem State.refuse_cap (s : State) : s.refuse.cap = s.cap := rfl
@[simp] theorem State.startEncode_cap (s : State) (x : EncSrc) (n : Nat) : (s.startEncode x n).cap = s.cap := rfl
@[simp] theorem State.take_cap (s : State) (a : Agent) : (s.take a).cap = s.cap := by cases a <;> rfl
@[simp] theorem State.writeByte_cap (s : State) (sp : Space) (a : Nat) (v : Byte) :
    (s.writeByte sp a v).cap = s.cap := by cases sp <;> rfl
@[simp] theorem State.store_cap (s : State) (v : Byte) : (s.store v).cap = s.cap := by
  simp [State.cap]

/-- Two states with the same MAXPKT have the same capacity. -/
theorem State.cap_congr {s t : State} (h : t.maxpkt = s.maxpkt) : t.cap = s.cap := by simp [State.cap, h]

/-! ## Reading bytes -/

@[simp] theorem State.readByte_rxbuf (s : State) (a : Nat) : s.readByte .rxbuf a = s.rxBuf.read a := rfl
@[simp] theorem State.readByte_txbuf (s : State) (a : Nat) : s.readByte .txbuf a = s.txBuf.read a := rfl

/-- A byte written is what is read back. -/
theorem State.readByte_writeByte_same {s : State} {sp : Space} {a : Nat} {v : Byte} (h : (s.buffer sp).wf) :
    (s.writeByte sp a v).readByte sp a = v := by
  cases sp <;> exact Memory.read_write_same h

/-- Every other byte, of either space, reads as before. -/
theorem State.readByte_writeByte_other {s : State} {sp sp' : Space} {a a' : Nat} {v : Byte}
    (h : sp' ≠ sp ∨ a' ≠ a) : (s.writeByte sp a v).readByte sp' a' = s.readByte sp' a' := by
  cases sp <;> cases sp' <;> simp_all [State.writeByte] <;> exact Memory.read_write_other h

/-- What a byte of the receive buffer reads as after STORE (40_receive.md R101). -/
theorem State.readByte_store {s : State} {v : Byte} (h : s.rxBuf.wf) (a : Nat) :
    (s.store v).readByte .rxbuf a = if s.rxLen < s.cap ∧ a = s.rxLen then v else s.readByte .rxbuf a := by
  rcases Nat.lt_or_ge s.rxLen s.cap with hc | hc
  · rw [State.store_below v hc]
    by_cases ha : a = s.rxLen
    · subst ha; simp [hc, Memory.read_write_same h]
    · simp [ha, Memory.read_write_other ha]
  · simp [State.store_full v hc, Nat.not_lt.2 hc]

/-- `rx_len` after STORE, which never passes CAP (40_receive.md R101). -/
theorem State.store_rxLen (s : State) (v : Byte) :
    (s.store v).rxLen = if s.rxLen < s.cap then s.rxLen + 1 else s.rxLen := by
  rcases Nat.lt_or_ge s.rxLen s.cap with hc | hc
  · simp [State.store_below v hc, hc]
  · simp [State.store_full v hc, Nat.not_lt.2 hc]

/-! ## The canonical form is kept -/

theorem State.writeByte_wf {s : State} {sp sp' : Space} {a : Nat} {v : Byte} (h : (s.buffer sp').wf) :
    ((s.writeByte sp a v).buffer sp').wf := by
  cases sp <;> cases sp' <;> first | exact Memory.write_wf h | exact h

theorem State.store_rxBuf_wf {s : State} {v : Byte} (h : s.rxBuf.wf) : (s.store v).rxBuf.wf := by
  rcases Nat.lt_or_ge s.rxLen s.cap with hc | hc
  · rw [State.store_below v hc]; exact Memory.write_wf h
  · rwa [State.store_full v hc]

theorem State.store_rxBuf_within {s : State} {v : Byte} (h : s.rxBuf.within s.cap) :
    (s.store v).rxBuf.within s.cap := by
  rcases Nat.lt_or_ge s.rxLen s.cap with hc | hc
  · rw [State.store_below v hc]; exact Memory.write_within h hc
  · rwa [State.store_full v hc]

theorem State.resetWith_rxBuf_wf (m : Nat) : (State.resetWith m).rxBuf.wf := Memory.wf_nil
theorem State.resetWith_txBuf_wf (m : Nat) : (State.resetWith m).txBuf.wf := Memory.wf_nil

/-! ## Frames -/

@[simp] theorem State.bytes_length (s : State) (sp : Space) (n : Nat) : (s.bytes sp n).length = n := by
  simp [State.bytes]

/-- The next byte of a buffer prefix. -/
theorem State.bytes_succ (s : State) (sp : Space) (n : Nat) :
    s.bytes sp (n + 1) = s.bytes sp n ++ [s.readByte sp n] := by
  simp [State.bytes, List.range_succ]

/-- Equal bytes below `n` give equal prefixes. -/
theorem State.bytes_congr {s t : State} {sp sp' : Space} {n : Nat}
    (h : ∀ k < n, t.readByte sp' k = s.readByte sp k) : t.bytes sp' n = s.bytes sp n := by
  simp only [State.bytes]
  exact List.map_congr_left fun k hk => h k (List.mem_range.1 hk)

@[simp] theorem State.frame_length (s : State) : s.frame.length = s.rxLen := by simp [State.frame]

@[simp] theorem State.sourceFrame_length (s : State) : s.sourceFrame.length = s.encLen := by
  simp [State.sourceFrame]

/-- Byte `k` of the frame under encode is `SRC(k)`. -/
theorem State.sourceFrame_getElem? (s : State) {k : Nat} (h : k < s.encLen) :
    s.sourceFrame[k]? = some (s.src k) := by
  simp [State.sourceFrame, State.bytes, State.src, h]

/-- Below the length, the rest of the frame under encode is `SRC(k)` and the rest after it. -/
theorem State.sourceFrame_drop (s : State) {k : Nat} (h : k < s.encLen) :
    s.sourceFrame.drop k = s.src k :: s.sourceFrame.drop (k + 1) := by
  have hk : k < s.sourceFrame.length := by simpa using h
  rw [List.drop_eq_getElem_cons hk]
  congr 1
  simp [State.sourceFrame, State.bytes, State.src]

end Sys2Proof.Machine
end

