-- ==== Sys2Proof/Laws/PerInstr.lean ====
section
/-! SUPPORT. Per instruction: its own event decodes to it in every context that selects it. -/

namespace Sys2Proof.Laws.RoundTrip

/-- In a context whose row conditions select it, the instruction's event decodes to it. -/
def Statement (i : Instr) : Prop := ∀ c : DecodeContext, selects c i = true → decode c (encode i) = .ok i

theorem rxDiscard (b : Byte) : Statement (.rxDiscard b) := by
  rintro ⟨up, p, e, k, n, x⟩ h
  cases up <;> cases p <;> simp_all [selects, decode, decodeRx, encode, RxPhase.ready]

theorem rxStartEnd : Statement (.rxStartEnd) := by
  rintro ⟨up, p, e, k, n, x⟩ h
  cases up <;> cases p <;> simp_all [selects, decode, decodeRx, encode, RxPhase.ready]

theorem rxStartData (b : Byte) : Statement (.rxStartData b) := by
  rintro ⟨up, p, e, k, n, x⟩ h
  cases up <;> cases p <;> simp_all [selects, decode, decodeRx, encode, RxPhase.ready]

theorem rxEnd : Statement (.rxEnd) := by
  rintro ⟨up, p, e, k, n, x⟩ h
  cases up <;> cases p <;> simp_all [selects, decode, decodeRx, encode, RxPhase.ready]

theorem rxEsc : Statement (.rxEsc) := by
  rintro ⟨up, p, e, k, n, x⟩ h
  cases up <;> cases p <;> simp_all [selects, decode, decodeRx, encode, RxPhase.ready]
  decide

theorem rxData (b : Byte) : Statement (.rxData b) := by
  rintro ⟨up, p, e, k, n, x⟩ h
  cases up <;> cases p <;> simp_all [selects, decode, decodeRx, encode, RxPhase.ready]

theorem rxEscEnd : Statement (.rxEscEnd) := by
  rintro ⟨up, p, e, k, n, x⟩ h
  cases up <;> cases p <;> simp_all [selects, decode, decodeRx, encode, RxPhase.ready]

theorem rxEscEsc : Statement (.rxEscEsc) := by
  rintro ⟨up, p, e, k, n, x⟩ h
  cases up <;> cases p <;> simp_all [selects, decode, decodeRx, encode, RxPhase.ready]
  decide

theorem rxEscBad (b : Byte) : Statement (.rxEscBad b) := by
  rintro ⟨up, p, e, k, n, x⟩ h
  cases up <;> cases p <;> simp_all [selects, decode, decodeRx, encode, RxPhase.ready]

theorem rxErr : Statement (.rxErr) := by
  rintro ⟨up, p, e, k, n, x⟩ h
  cases up <;> cases p <;> simp_all [selects, decode, decodeRxErr, encode, RxPhase.ready]

theorem txLead : Statement (.txLead) := by
  rintro ⟨up, p, e, k, n, x⟩ h
  cases e <;> simp_all [selects, decode, decodeEmit, encode]

theorem txTrail : Statement (.txTrail) := by
  rintro ⟨up, p, e, k, n, x⟩ h
  cases e <;> simp_all [selects, decode, decodeEmit, encode]

theorem txEsc : Statement (.txEsc) := by
  rintro ⟨up, p, e, k, n, x⟩ h
  cases e <;> simp_all [selects, decode, decodeEmit, encode]
  omega

theorem txData : Statement (.txData) := by
  rintro ⟨up, p, e, k, n, x⟩ h
  cases e <;> simp_all [selects, decode, decodeEmit, encode]
  omega

theorem txCode : Statement (.txCode) := by
  rintro ⟨up, p, e, k, n, x⟩ h
  cases e <;> simp_all [selects, decode, decodeEmit, encode]

theorem ifup : Statement (.ifup) := by
  intro c _; rfl

theorem ifdown : Statement (.ifdown) := by
  intro c _; rfl

theorem ack (n : Nat) : Statement (.ack n) := by
  intro c _; rfl

theorem txstart (n : Nat) : Statement (.txstart n) := by
  intro c _; rfl

theorem wtx (i : Nat) (v : Byte) : Statement (.wtx i v) := by
  intro c _; rfl

theorem rtx (i : Nat) : Statement (.rtx i) := by
  intro c _; rfl

theorem wrx (i : Nat) (v : Byte) : Statement (.wrx i v) := by
  intro c _; rfl

theorem rrx (i : Nat) : Statement (.rrx i) := by
  intro c _; rfl

theorem status : Statement (.status) := by
  intro c _; rfl

theorem reserved0 : Statement (.reserved0) := by
  intro c _; rfl

theorem reservedA : Statement (.reservedA) := by
  intro c _; rfl

theorem reservedB : Statement (.reservedB) := by
  intro c _; rfl

theorem reservedC : Statement (.reservedC) := by
  intro c _; rfl

theorem reservedD : Statement (.reservedD) := by
  intro c _; rfl

theorem reservedE : Statement (.reservedE) := by
  intro c _; rfl

theorem reservedF : Statement (.reservedF) := by
  intro c _; rfl

end Sys2Proof.Laws.RoundTrip
end

