-- ==== Sys2Proof/Laws/Step.lean ====
section
/-! SUPPORT. What a step can do. -/

namespace Sys2Proof.Machine

/-- Taking an event off its source changes nothing the decoder or the meanings read. -/
@[simp] theorem State.context_take (s : State) (a : Agent) : (s.take a).context = s.context := by cases a <;> rfl

@[simp] theorem State.enabled_take (s : State) (a : Agent) (i : Instr) :
    (s.take a).enabled i = s.enabled i := by
  cases a <;> cases i <;> rfl

/-- An accepted event has a class, which is enabled. -/
theorem State.accepts_iff (s : State) (e : Event) :
    s.accepts e = true ↔ ∃ i, decode s.context e = .ok i ∧ s.enabled i = true := by
  unfold State.accepts
  cases decode s.context e <;> simp

/-- What one agent's turn can come to. -/
theorem turn_cases {a : Agent} {s t : State} (h : turn a s = .next t) :
    t = s ∨ ∃ e i, s.offer a = some e ∧ decode s.context e = .ok i ∧ s.enabled i = true ∧
      exec i (s.take a) = .next t := by
  unfold turn at h
  split at h
  · cases h; exact .inl rfl
  · next e he =>
    split at h
    · next ha =>
      obtain ⟨i, hd, hi⟩ := (s.accepts_iff e).1 ha
      refine .inr ⟨e, i, he, hd, hi, ?_⟩
      simpa [deliver, hd] using h
    · cases h; exact .inl rfl

/-- What a step can come to: only an unmarked run steps, and then nothing but the schedule changes, or one enabled
instruction runs after its event is taken. -/
theorem step_cases {s t : State} (h : step s = .next t) :
    s.live = true ∧ ((s.schedule = [] ∧ t = s) ∨ ∃ a rest, s.schedule = a :: rest ∧
      (t = { s with schedule := rest } ∨
        ∃ e i, ({ s with schedule := rest } : State).offer a = some e ∧
          decode ({ s with schedule := rest } : State).context e = .ok i ∧
          ({ s with schedule := rest } : State).enabled i = true ∧
          exec i (({ s with schedule := rest } : State).take a) = .next t)) := by
  unfold step at h
  split at h
  · cases h
  · next hf =>
    split at h
    · cases h
    · next hr =>
      refine ⟨(s.live_iff).2 ⟨hf, by simpa using hr⟩, ?_⟩
      split at h
      · next hs => cases h; exact .inl ⟨hs, rfl⟩
      · next a rest hs => exact .inr ⟨a, rest, hs, turn_cases h⟩

end Sys2Proof.Machine
end

