-- ==== Sys2Proof/Laws/Trace.lean ====
section
/-! SUPPORT. Traces: one event, a trace cut in two, and the wire form piece by piece. -/

namespace Sys2Proof.Machine

@[simp] theorem runTrace_nil (s : State) : runTrace [] s = some s := rfl

/-- Delivering an event is executing its instruction. -/
theorem deliver_of_decode {e : Event} {s : State} {i : Instr} (h : decode s.context e = .ok i) :
    deliver e s = exec i s := by simp [deliver, h]

/-- An accepted event ends in its instruction's effect. -/
theorem deliver_of_enabled {e : Event} {s : State} {i : Instr} (h : decode s.context e = .ok i)
    (hi : s.enabled i = true) : deliver e s = .next (effect s i) := by
  rw [deliver_of_decode h, exec_of_enabled hi]

/-- A trace begins with its first event's effect. -/
theorem runTrace_cons {e : Event} {es : List Event} {s : State} {i : Instr} (h : decode s.context e = .ok i)
    (hi : s.enabled i = true) : runTrace (e :: es) s = runTrace es (effect s i) := by
  have ha : s.accepts e = true := (s.accepts_iff e).2 ⟨i, h, hi⟩
  simp [runTrace, ha, deliver_of_enabled h hi]

/-- What a trace of at least one event can come to. -/
theorem runTrace_cons_cases {e : Event} {es : List Event} {s t : State} (h : runTrace (e :: es) s = some t) :
    ∃ i, decode s.context e = .ok i ∧ s.enabled i = true ∧ runTrace es (effect s i) = some t := by
  unfold runTrace at h
  split at h
  · next ha =>
    obtain ⟨i, hd, hi⟩ := (s.accepts_iff e).1 ha
    rw [deliver_of_enabled hd hi] at h
    exact ⟨i, hd, hi, h⟩
  · cases h

/-- A trace cut in two. -/
theorem runTrace_append (es fs : List Event) (s : State) :
    runTrace (es ++ fs) s = (runTrace es s).bind (runTrace fs) := by
  induction es generalizing s with
  | nil => rfl
  | cons e es ih =>
    simp only [List.cons_append, runTrace]
    split
    · split
      · exact ih _
      · rfl
      · rfl
    · rfl

/-! ## The wire form -/

@[simp] theorem stuff_end : stuff END = [ESC, ESC_END] := rfl
@[simp] theorem stuff_esc : stuff ESC = [ESC, ESC_ESC] := rfl

/-- A byte that is neither END nor ESC goes out as itself. -/
theorem stuff_other {b : Byte} (h1 : b ≠ END) (h2 : b ≠ ESC) : stuff b = [b] := by simp [stuff, h1, h2]

theorem wireEncode_nil : wireEncode [] = [END, END] := rfl

/-- The wire form, opened at its first byte. -/
theorem wireEncode_cons (b : Byte) (x : List Byte) :
    wireEncode (b :: x) = END :: (stuff b ++ (x.flatMap stuff ++ [END])) := by
  simp [wireEncode]

end Sys2Proof.Machine
end

