-- ==== Sys2Proof/Tests/Slice0.lean ====
section
/-! SUPPORT. The model's own tests: well-formedness, decoding of words written out from the spec, single steps with results
taken from the spec's examples and vectors, and a witness for the hypotheses of every statement. -/

namespace Sys2Proof.Tests

open Sys2Proof.Machine

/-! ## Small states. CAP is 4 throughout. -/

/-- The receive path in a phase, with a length and the bytes 41 42 at the start of the buffer. -/
def rx (up : Bool) (p : RxPhase) (len : Nat) : State :=
  { State.resetWith 2 with up := up, rxPhase := p, rxLen := len, rxBuf := [(0, 0x41#8), (1, 0x42#8)] }

/-- The encoder in a phase, on the transmit buffer C0 41 DB. -/
def enc (e : EncPhase) (idx len : Nat) : State :=
  { State.resetWith 2 with
    up := true, encPhase := e, encIdx := idx, encLen := len, txBuf := [(0, 0xC0#8), (1, 0x41#8), (2, 0xDB#8)] }

/-- A reply under encode from the receive buffer. -/
def reply (e : EncPhase) (idx len : Nat) : State :=
  { rx true .reply 0 with encSrc := .rxbuf, encPhase := e, encIdx := idx, encLen := len }

/-- What an outcome's next state satisfies. -/
def ends (r : Result) (p : State → Bool) : Bool :=
  match r with
  | .next s => p s
  | .fault _ | .refused _ => false

/-- The last output. -/
def lastOut (s : State) : Option Output := s.outputs.getLast?

/-! ## Well-formedness refuses each ill-formed term -/

theorem test_wf_refuses_rxStartData_end : Instr.wf (.rxStartData 0xC0#8) = false := by decide
theorem test_wf_refuses_rxData_end : Instr.wf (.rxData 0xC0#8) = false := by decide
theorem test_wf_refuses_rxData_esc : Instr.wf (.rxData 0xDB#8) = false := by decide
theorem test_wf_refuses_rxEscBad_escend : Instr.wf (.rxEscBad 0xDC#8) = false := by decide
theorem test_wf_refuses_rxEscBad_escesc : Instr.wf (.rxEscBad 0xDD#8) = false := by decide
theorem test_wf_accepts_controls_elsewhere :
    Instr.wf (.rxStartData 0xDB#8) && Instr.wf (.rxData 0xDC#8) && Instr.wf (.rxEscBad 0xC0#8) = true := by decide

/-! ## Decoding, from 30_encoding.md R76, R79 and R80, every constructor -/

/-- A context with the decoder in a phase. -/
def inRx (up : Bool) (p : RxPhase) : DecodeContext := ⟨up, p, .idle, 0, 0, 0x00#8⟩

/-- A context with the encoder in a phase. -/
def inTx (e : EncPhase) (idx len : Nat) (s : Byte) : DecodeContext := ⟨true, .start, e, idx, len, s⟩

theorem test_decode_rxDiscard : decode (inRx false .body) (.rx 0b11000000#8) = .ok (.rxDiscard 0xC0#8) := by rfl
theorem test_decode_rxStartEnd : decode (inRx true .start) (.rx 0b11000000#8) = .ok .rxStartEnd := by rfl
theorem test_decode_rxStartData : decode (inRx true .start) (.rx 0b11011011#8) = .ok (.rxStartData 0xDB#8) := by rfl
theorem test_decode_rxEnd : decode (inRx true .body) (.rx 0b11000000#8) = .ok .rxEnd := by rfl
theorem test_decode_rxEsc : decode (inRx true .body) (.rx 0b11011011#8) = .ok .rxEsc := by rfl
theorem test_decode_rxData : decode (inRx true .body) (.rx 0b11011100#8) = .ok (.rxData 0xDC#8) := by rfl
theorem test_decode_rxEscEnd : decode (inRx true .escaped) (.rx 0b11011100#8) = .ok .rxEscEnd := by rfl
theorem test_decode_rxEscEsc : decode (inRx true .escaped) (.rx 0b11011101#8) = .ok .rxEscEsc := by rfl
theorem test_decode_rxEscBad : decode (inRx true .escaped) (.rx 0b11011011#8) = .ok (.rxEscBad 0xDB#8) := by rfl
theorem test_decode_rxErr : decode (inRx false .escaped) .rxErr = .ok .rxErr := by rfl
theorem test_decode_rx_held : decode (inRx true .handoff) (.rx 0x55#8) = .error .rxNotReady := by rfl
theorem test_decode_txLead : decode (inTx .lead 0 2 0x41#8) .emit = .ok .txLead := by rfl
theorem test_decode_txTrail : decode (inTx .data 2 2 0xC0#8) .emit = .ok .txTrail := by rfl
theorem test_decode_txEsc : decode (inTx .data 1 2 0xDB#8) .emit = .ok .txEsc := by rfl
theorem test_decode_txData : decode (inTx .data 1 2 0xDC#8) .emit = .ok .txData := by rfl
theorem test_decode_txCode : decode (inTx .esc2 1 2 0xC0#8) .emit = .ok .txCode := by rfl
theorem test_decode_emit_held : decode (inTx .idle 0 0 0x00#8) .emit = .error .encoderIdle := by rfl

/-- Each command code with all operand fields given. -/
def cmd (op : BitVec 4) : Except DecodeReject Instr := decode (inRx true .start) (.command ⟨op, 7, 3, 0x45#8⟩)

theorem test_decode_ifup : cmd 0b0001#4 = .ok .ifup := by rfl
theorem test_decode_ifdown : cmd 0b0010#4 = .ok .ifdown := by rfl
theorem test_decode_ack : cmd 0b0011#4 = .ok (.ack 7) := by rfl
theorem test_decode_txstart : cmd 0b0100#4 = .ok (.txstart 7) := by rfl
theorem test_decode_wtx : cmd 0b0101#4 = .ok (.wtx 3 0x45#8) := by rfl
theorem test_decode_rtx : cmd 0b0110#4 = .ok (.rtx 3) := by rfl
theorem test_decode_wrx : cmd 0b0111#4 = .ok (.wrx 3 0x45#8) := by rfl
theorem test_decode_rrx : cmd 0b1000#4 = .ok (.rrx 3) := by rfl
theorem test_decode_status : cmd 0b1001#4 = .ok .status := by rfl
theorem test_decode_reserved :
    cmd 0b0000#4 = .ok .reserved0 ∧ cmd 0b1010#4 = .ok .reservedA ∧ cmd 0b1011#4 = .ok .reservedB ∧
    cmd 0b1100#4 = .ok .reservedC ∧ cmd 0b1101#4 = .ok .reservedD ∧ cmd 0b1110#4 = .ok .reservedE ∧
    cmd 0b1111#4 = .ok .reservedF := ⟨rfl, rfl, rfl, rfl, rfl, rfl, rfl⟩

/-! ## Table words -/

theorem test_table_words :
    decodeTableWord 8 0x01 = some .ifup ∧ decodeTableWord 8 0x0B = some .reservedB ∧
    decodeTableWord 8 0xC0 = some .rxStartEnd ∧ decodeTableWord 8 0xDB = some .rxEsc ∧
    decodeTableWord 8 0xDC = some .rxEscEnd ∧ decodeTableWord 8 0xDD = some .rxEscEsc ∧
    decodeTableWord 4 0x09 = some .status ∧ decodeTableWord 9 0xC0 = none := by decide

theorem test_fetch_word_runs_next :
    ends (step (State.reset.withFetchWord 8 0x02)) (fun s => lastOut s == some (.responded .ok)) = true ∧
    ends (step (State.reset.withFetchWord 8 0xDB)) (fun s => s.rxPhase == .escaped) = true ∧
    ends (step (State.reset.withFetchWord 8 0x0F)) (fun s => s.refused) = true := by decide

/-! ## Single steps: the examples of 40_receive.md -/

theorem test_rxDiscard_keeps_frame : -- R102, example
    ends (exec (.rxDiscard 0xC0#8) (rx false .body 2))
      (fun s => lastOut s == some (.received .discarded false) && s.rxPhase == .body && s.rxLen == 2) = true := by decide
theorem test_rxStartEnd : -- R103, example
    ends (exec .rxStartEnd (rx true .start 0))
      (fun s => lastOut s == some (.received .assembling false) && s.rxPhase == .body && s.rxLen == 0) = true := by decide
theorem test_rxStartData_stores_esc : -- R104, example
    ends (exec (.rxStartData 0xDB#8) (rx true .start 0))
      (fun s => s.readByte .rxbuf 0 == 0xDB#8 && s.rxPhase == .body && s.rxLen == 1) = true := by decide
theorem test_rxEnd_completes : -- R105, example
    ends (exec .rxEnd (rx true .body 2))
      (fun s => lastOut s == some (.received .complete false) && s.frame == [0x41#8, 0x42#8] &&
        s.rxPhase == .handoff) = true := by decide
theorem test_rxEnd_keep_alive : -- R105, example
    ends (exec .rxEnd (rx true .body 0))
      (fun s => lastOut s == some (.received .discarded false) && s.rxPhase == .body) = true := by decide
theorem test_rxEsc : -- R106, example
    ends (exec .rxEsc (rx true .body 1)) (fun s => s.rxPhase == .escaped && s.rxLen == 1) = true := by decide
theorem test_rxData_stores : -- R107, example
    ends (exec (.rxData 0x42#8) (rx true .body 1)) (fun s => s.readByte .rxbuf 1 == 0x42#8 && s.rxLen == 2) = true := by
  decide
theorem test_rxData_dropped_at_capacity : -- R101, example
    ends (exec (.rxData 0x55#8) (rx true .body 4))
      (fun s => s.rxLen == 4 && s.rxBuf == [(0, 0x41#8), (1, 0x42#8)]) = true := by decide
theorem test_rxEscEnd : -- R108, example
    ends (exec .rxEscEnd (rx true .escaped 1))
      (fun s => s.readByte .rxbuf 1 == 0xC0#8 && s.rxLen == 2 && s.rxPhase == .body) = true := by decide
theorem test_rxEscEnd_at_capacity : -- R108, corner case
    ends (exec .rxEscEnd (rx true .escaped 4)) (fun s => s.rxLen == 4 && s.rxPhase == .body) = true := by decide
theorem test_rxEscEsc : -- R109, example
    ends (exec .rxEscEsc (rx true .escaped 1))
      (fun s => s.readByte .rxbuf 1 == 0xDB#8 && s.rxLen == 2 && s.rxPhase == .body) = true := by decide
theorem test_rxEscBad : -- R110, example
    ends (exec (.rxEscBad 0x99#8) (rx true .escaped 1))
      (fun s => s.readByte .rxbuf 1 == 0x99#8 && s.rxLen == 2 && lastOut s == some (.received .assembling true)) = true := by
  decide
theorem test_rxEscBad_at_capacity : -- V-R11
    ends (exec (.rxEscBad 0x99#8) (rx true .escaped 4))
      (fun s => s.rxLen == 4 && lastOut s == some (.received .assembling true)) = true := by decide
theorem test_rxErr : -- R111, example
    ends (exec .rxErr (rx true .body 3)) (fun s => s.rxPhase == .failed && s.rxLen == 3 && s.outputs == []) = true := by
  decide

/-! ## Single steps: the examples of 41_transmit.md -/

theorem test_txLead : -- R132, example
    ends (exec .txLead (enc .lead 0 2))
      (fun s => lastOut s == some (.emitted 0xC0#8) && s.encPhase == .data && s.encIdx == 0) = true := by decide
theorem test_txData : -- R133, example
    ends (exec .txData (enc .data 1 2)) (fun s => lastOut s == some (.emitted 0x41#8) && s.encIdx == 2) = true := by decide
theorem test_txEsc_end : -- R134, example
    ends (exec .txEsc (enc .data 0 2))
      (fun s => lastOut s == some (.emitted 0xDB#8) && s.encPhase == .esc2 && s.encCode == 0xDC#8 && s.encIdx == 0) = true := by
  decide
theorem test_txEsc_esc : -- V-T4
    ends (exec .txEsc (enc .data 2 3)) (fun s => s.encCode == 0xDD#8) = true := by decide
theorem test_txCode : -- R135, example
    ends (exec .txCode { enc .esc2 0 2 with encCode := 0xDC#8 })
      (fun s => lastOut s == some (.emitted 0xDC#8) && s.encPhase == .data && s.encIdx == 1) = true := by decide
theorem test_txTrail : -- R136, example
    ends (exec .txTrail (enc .data 2 2))
      (fun s => lastOut s == some (.emitted 0xC0#8) && s.encPhase == .idle && s.rxPhase == .start) = true := by decide
theorem test_txTrail_reply : -- R136
    ends (exec .txTrail (reply .data 2 2)) (fun s => s.encPhase == .idle && s.rxPhase == .start) = true := by decide

/-! ## Single steps: the examples of 42_host.md and the vectors of 95_test_vectors.md -/

theorem test_ifup_edge : -- R152, example
    ends (exec .ifup (rx false .body 2)) (fun s => s.up && s.rxPhase == .start && s.rxLen == 0) = true := by decide
theorem test_ifup_while_up : -- V-H3
    ends (exec .ifup (rx true .body 2)) (fun s => s.rxPhase == .body && s.rxLen == 2) = true := by decide
theorem test_ifdown : -- R153, example
    ends (exec .ifdown (rx true .body 2)) (fun s => !s.up && s.rxPhase == .body && s.rxLen == 2) = true := by decide
theorem test_ack_reply : -- R154, example
    ends (exec (.ack 2) (rx true .handoff 2))
      (fun s => s.rxPhase == .reply && s.rxLen == 0 && s.encPhase == .lead && s.encSrc == .rxbuf && s.encLen == 2) = true := by
  decide
theorem test_ack_range_first : -- V-H8
    ends (exec (.ack 5) (rx true .start 0)) (fun s => s.fault == some (.lenRange .ack 5)) = true := by decide
theorem test_txstart : -- R155, example
    ends (exec (.txstart 1) (enc .idle 0 0)) (fun s => s.encPhase == .lead && s.encLen == 1) = true := by decide
theorem test_txstart_down : -- V-H9
    ends (exec (.txstart 2) (State.resetWith 2))
      (fun s => lastOut s == some (.responded .dropped) && s.encPhase == .idle) = true := by decide
theorem test_wtx : -- R156, example
    ends (exec (.wtx 0 0xC0#8) (rx true .start 0)) (fun s => s.readByte .txbuf 0 == 0xC0#8) = true := by decide
theorem test_wtx_owned : -- V-H14
    ends (exec (.wtx 0 0x11#8) (enc .lead 0 1)) (fun s => s.fault == some (.txbufOwner .wtx .lead)) = true := by decide
theorem test_rtx_zero : -- R157, example
    ends (exec (.rtx 3) (State.resetWith 2)) (fun s => lastOut s == some (.responded (.byte 0x00#8))) = true := by decide
theorem test_wrx : -- R158, example
    ends (exec (.wrx 0 0x45#8) (rx true .handoff 1)) (fun s => s.readByte .rxbuf 0 == 0x45#8 && s.rxLen == 1) = true := by
  decide
theorem test_rrx : -- R159, example
    ends (exec (.rrx 1) (rx true .handoff 2)) (fun s => lastOut s == some (.responded (.byte 0x42#8))) = true := by decide
theorem test_rrx_range_first : -- V-H17
    ends (exec (.rrx 4) (rx true .start 0)) (fun s => s.fault == some (.indexRange .rrx 4)) = true := by decide
theorem test_status_handoff : -- R160, example
    ends (exec .status (rx true .handoff 3)) (fun s => lastOut s == some (.responded (.record 0x0007#16 3 0 0))) = true := by
  decide
theorem test_status_reply : -- V-H15
    ends (exec .status (reply .lead 0 1)) (fun s => lastOut s == some (.responded (.record 0x0059#16 0 1 0))) = true := by
  decide
theorem test_reserved_refuses : -- V-H23
    ends (exec .reservedB (State.resetWith 2)) (fun s => s.refused && s.outputs == [] && !s.accepts evIfup) = true := by
  decide

/-! ## The wire form and the written form -/

theorem test_wireEncode : -- V-T10
    wireEncode [0x41#8, 0xC0#8, 0xDB#8, 0x42#8] =
      [0xC0#8, 0x41#8, 0xDB#8, 0xDC#8, 0xDB#8, 0xDD#8, 0x42#8, 0xC0#8] := by decide

theorem test_readLine_wtx : -- 95_test_vectors.md, P2 step 2
    readLine ['W', 'T', 'X', ' ', '0', ',', ' ', 'C', '0', ' ', ';', 'x'] = some [evWtx 0 0xC0#8] := by decide

theorem test_readTrace_lines : -- 30_encoding.md R84
    readTrace ['R', 'X', ' ', '0', 'x', 'd', 'B', '\n', '\n', 'A', 'C', 'K', ' ', '1', '2'] =
      some [.rx 0xDB#8, evAck 12] := by decide

/-! ## Witnesses: states that meet the hypotheses of each statement, clause by clause -/

theorem witness_receive_accepts : (rx true .start 0).accepts (.rx 0x41#8) = true ∧
    (rx false .escaped 1).accepts (.rx 0xC0#8) = true ∧ (rx true .body 4).accepts (.rx 0xDB#8) = true := by decide
theorem witness_store_below : (rx true .body 3).rxBuf.wf ∧ (rx true .body 3).rxLen < (rx true .body 3).cap := by decide
theorem witness_store_full : (rx true .body 4).rxBuf.wf ∧ (rx true .body 4).cap ≤ (rx true .body 4).rxLen := by decide
theorem witness_rxDiscard : (rx false .escaped 1).live = true ∧ (rx false .escaped 1).up = false ∧
    (rx false .escaped 1).rxPhase = .escaped := by decide
theorem witness_rxStart : (rx true .start 0).live = true ∧ (rx true .start 0).up = true ∧
    (rx true .start 0).rxPhase = .start ∧ (0xDB#8 : Byte) ≠ 0xC0#8 := by decide
theorem witness_rxEnd : ((rx true .body 1).live = true ∧ (rx true .body 1).up = true ∧
    (rx true .body 1).rxPhase = .body ∧ 0 < (rx true .body 1).rxLen) ∧ (rx true .body 0).rxLen = 0 ∧
    (rx true .body 0).live = true ∧ (rx true .body 0).up = true ∧ (rx true .body 0).rxPhase = .body := by decide
theorem witness_rxData : ((rx true .body 3).live = true ∧ (rx true .body 3).rxLen < (rx true .body 3).cap) ∧
    (rx true .body 4).live = true ∧ (rx true .body 4).up = true ∧ (rx true .body 4).rxPhase = .body ∧
    (rx true .body 4).cap ≤ (rx true .body 4).rxLen ∧ (0xDC#8 : Byte) ≠ 0xC0#8 ∧ (0xDC#8 : Byte) ≠ 0xDB#8 := by decide
theorem witness_escaped : ((rx true .escaped 3).live = true ∧ (rx true .escaped 3).up = true ∧
    (rx true .escaped 3).rxPhase = .escaped ∧ (rx true .escaped 3).rxLen < (rx true .escaped 3).cap) ∧
    (rx true .escaped 4).live = true ∧ (rx true .escaped 4).up = true ∧ (rx true .escaped 4).rxPhase = .escaped ∧
    (rx true .escaped 4).cap ≤ (rx true .escaped 4).rxLen ∧ (0xC0#8 : Byte) ≠ 0xDC#8 ∧ (0xC0#8 : Byte) ≠ 0xDD#8 := by
  decide
theorem witness_rxErr : (rx false .start 0).accepts .rxErr = true ∧ (rx true .failed 1).live = true ∧
    (rx true .failed 1).rxPhase = .failed ∧ 3 < (rx true .failed 1).cap := by decide
theorem witness_emit : (enc .data 2 2).encIdx ≤ (enc .data 2 2).encLen ∧ (enc .data 2 2).accepts .emit = true ∧
    (enc .lead 0 0).accepts .emit = true ∧ (reply .esc2 0 1).accepts .emit = true := by decide
theorem witness_txLead : (enc .lead 0 0).live = true ∧ (enc .lead 0 0).encPhase = .lead := by decide
theorem witness_txData : (enc .data 1 2).live = true ∧ (enc .data 1 2).encPhase = .data ∧
    (enc .data 1 2).encIdx < (enc .data 1 2).encLen ∧ (enc .data 1 2).src 1 ≠ 0xC0#8 ∧
    (enc .data 1 2).src 1 ≠ 0xDB#8 := by decide
theorem witness_txEsc : ((enc .data 0 1).live = true ∧ (enc .data 0 1).encPhase = .data ∧
    (enc .data 0 1).encIdx < (enc .data 0 1).encLen ∧ (enc .data 0 1).src 0 = 0xC0#8) ∧
    (enc .data 2 3).live = true ∧ (enc .data 2 3).encPhase = .data ∧
    (enc .data 2 3).encIdx < (enc .data 2 3).encLen ∧ (enc .data 2 3).src 2 = 0xDB#8 := by decide
theorem witness_txCode : (enc .esc2 0 1).live = true ∧ (enc .esc2 0 1).encPhase = .esc2 := by decide
theorem witness_txTrail : ((enc .data 3 3).live = true ∧ (enc .data 3 3).encPhase = .data ∧
    (enc .data 3 3).encIdx = (enc .data 3 3).encLen ∧ (enc .data 3 3).encSrc = .txbuf) ∧
    (reply .data 1 1).live = true ∧ (reply .data 1 1).encPhase = .data ∧
    (reply .data 1 1).encIdx = (reply .data 1 1).encLen ∧ (reply .data 1 1).encSrc = .rxbuf := by decide
theorem witness_ifup : (rx true .body 1).live = true ∧ (rx true .body 1).up = true ∧
    (rx false .escaped 4).live = true ∧ (rx false .escaped 4).up = false ∧ (rx false .escaped 4).rxPhase = .escaped ∧
    (rx false .handoff 1).live = true ∧ (rx false .handoff 1).up = false ∧ (rx false .handoff 1).rxPhase = .handoff := by
  decide
theorem witness_ack_faults : (rx true .handoff 1).live = true ∧ (rx true .handoff 1).cap < 5 ∧
    (rx true .body 1).live = true ∧ 4 ≤ (rx true .body 1).cap ∧ (rx true .body 1).rxPhase ≠ .handoff := by decide
theorem witness_ack_release : (rx true .handoff 4).live = true ∧ (rx true .handoff 4).rxPhase = .handoff := by decide
theorem witness_ack_dropped : (rx false .handoff 1).live = true ∧ 1 ≤ 4 ∧ 4 ≤ (rx false .handoff 1).cap ∧
    (rx false .handoff 1).rxPhase = .handoff ∧ (rx false .handoff 1).up = false := by decide
theorem witness_ack_reply : (rx true .handoff 1).live = true ∧ 4 ≤ (rx true .handoff 1).cap ∧
    (rx true .handoff 1).rxPhase = .handoff ∧ (rx true .handoff 1).up = true ∧
    (rx true .handoff 1).encPhase = .idle := by decide
theorem witness_ack_hold : ({ rx true .handoff 1 with encPhase := .lead } : State).live = true ∧
    ({ rx true .handoff 1 with encPhase := .lead } : State).up = true ∧
    1 ≤ ({ rx true .handoff 1 with encPhase := .lead } : State).cap ∧
    ({ rx true .handoff 1 with encPhase := .lead } : State).rxPhase = .handoff ∧
    ({ rx true .handoff 1 with encPhase := .lead } : State).encPhase ≠ .idle := by decide
theorem witness_txstart : (enc .idle 0 0).live = true ∧ (enc .idle 0 0).cap < 5 ∧ 4 ≤ (enc .idle 0 0).cap ∧
    (enc .idle 0 0).up = true ∧ (enc .idle 0 0).encPhase = .idle ∧
    (rx false .start 0).live = true ∧ (rx false .start 0).up = false ∧
    (enc .lead 0 1).live = true ∧ (enc .lead 0 1).up = true ∧ (enc .lead 0 1).encPhase ≠ .idle := by decide
theorem witness_wtx : (enc .lead 0 1).live = true ∧ (enc .lead 0 1).cap ≤ 4 ∧ 3 < (enc .lead 0 1).cap ∧
    (enc .lead 0 1).encPhase ≠ .idle ∧ (enc .lead 0 1).encSrc = .txbuf ∧
    (enc .idle 0 0).live = true ∧ 3 < (enc .idle 0 0).cap ∧ (enc .idle 0 0).encPhase = .idle ∧
    (reply .lead 0 1).live = true ∧ 3 < (reply .lead 0 1).cap ∧ (reply .lead 0 1).encSrc = .rxbuf := by decide
theorem witness_host_receive_buffer : (rx true .handoff 1).live = true ∧ (rx true .handoff 1).cap ≤ 4 ∧
    3 < (rx true .handoff 1).cap ∧ (rx true .handoff 1).rxPhase = .handoff ∧
    (rx true .body 1).live = true ∧ 3 < (rx true .body 1).cap ∧ (rx true .body 1).rxPhase ≠ .handoff := by decide
theorem witness_reserved : (rx true .start 0).live = true := by decide
theorem witness_roundTrip : Instr.wf (.rxEscBad 0xC0#8) = true ∧
    selects (inRx true .escaped) (.rxEscBad 0xC0#8) = true := by decide

/-- A turn for the host with a command pending. -/
def hostTurn (w : CommandWord) (s : State) : State := { s with schedule := [.host], hostPort := [w] }

theorem witness_step_runs : (hostTurn ⟨0x9#4, 0, 0, 0⟩ (rx true .start 0)).live = true ∧
    (hostTurn ⟨0x9#4, 0, 0, 0⟩ (rx true .start 0)).offer .host = some evStatus ∧
    (hostTurn ⟨0x9#4, 0, 0, 0⟩ (rx true .start 0)).accepts evStatus = true ∧
    (hostTurn ⟨0x4#4, 1, 0, 0⟩ (enc .lead 0 1)).accepts (evTxstart 1) = false := by decide
theorem witness_marked : (rx true .start 0).refuse.live = false ∧
    ((rx true .start 0).raise (.ackNoFrame .ack)).live = false := by decide
theorem witness_marks_kept : ends (exec .ifup (rx true .start 0).refuse) (fun s => s.refused) = true ∧
    ends (exec .ifup ((rx true .start 0).raise (.ackNoFrame .ack))) (fun s => s.fault == some (.ackNoFrame .ack)) = true ∧
    ends (deliver .emit (rx true .start 0).refuse) (fun s => s.refused) = true := by decide
theorem witness_fault : (rx true .body 1).live = true ∧
    ends (exec (.ack 4) (rx true .body 1)) (fun s => s.fault == some (.ackNoFrame .ack)) = true ∧
    ends (exec (.txstart 5) (rx true .body 1)) (fun s => s.fault == some (.lenRange .txstart 5)) = true ∧
    ends (exec (.wrx 4 0x11#8) (rx true .body 1)) (fun s => s.fault == some (.indexRange .wrx 4)) = true ∧
    ends (exec (.wrx 3 0x11#8) (rx true .body 1)) (fun s => s.fault == some (.rxbufOwner .wrx .body)) = true ∧
    ends (exec (.wtx 3 0x11#8) (enc .data 0 1)) (fun s => s.fault == some (.txbufOwner .wtx .data)) = true := by decide
theorem witness_holds : (rx true .handoff 1).accepts (.rx 0x55#8) = false ∧ (rx true .handoff 1).live = true ∧
    (rx true .start 0).accepts .emit = false ∧ (rx true .failed 0).accepts .rxErr = false ∧
    (enc .lead 0 1).accepts (evTxstart 0) = false ∧
    ({ rx true .handoff 1 with encPhase := .lead } : State).accepts (evAck 1) = false := by decide
theorem witness_conforming : (rx true .handoff 4).live = true ∧ (rx true .handoff 4).conforming (.wrx 3 0x11#8) = true ∧
    (rx true .handoff 4).conforming (.ack 4) = true := by decide

theorem witness_inv_handoff : (rx true .handoff 2).Inv := by constructor <;> decide
theorem witness_inv_lead : (enc .lead 0 3).Inv := by constructor <;> decide
theorem witness_inv_reply : (reply .data 1 2).Inv := by constructor <;> decide
theorem witness_inv_failed : (rx true .failed 1).Inv := by constructor <;> decide

/-- A turn for the receive port with a byte pending. -/
def rxTurn (b : Byte) (s : State) : State := { s with schedule := [.receivePort], rxPort := [.byte b] }

/-- A turn for the transmit port. -/
def txTurn (s : State) : State := { s with schedule := [.transmitPort], txTakes := 1 }

theorem witness_handoff_begins : (rxTurn 0xC0#8 (rx true .body 1)).rxPhase ≠ .handoff ∧
    ends (step (rxTurn 0xC0#8 (rx true .body 1))) (fun s => s.rxPhase == .handoff) = true := by decide
theorem witness_store_address : (rx true .body 3).storeAddress .rxEscEnd = some (.rxbuf, 3) ∧
    (rx true .body 4).storeAddress .rxEscEnd = none ∧ (rx true .escaped 3).enabled .rxEscEnd = true ∧
    (rx true .start 0).storeAddress (.rxStartData 0x41#8) = some (.rxbuf, 0) := by decide
theorem witness_stored : (rx true .escaped 3).rxBuf.wf ∧ (rx true .escaped 3).txBuf.wf ∧
    (rx true .escaped 3).storeAddress .rxEscEsc = some (.rxbuf, 3) ∧
    ends (exec .rxEscEsc (rx true .escaped 3)) (fun s => s.fault == none) = true := by decide
theorem witness_read_back : (enc .idle 0 0).live = true ∧ 3 < (enc .idle 0 0).cap ∧ (enc .idle 0 0).rxBuf.wf ∧
    (enc .idle 0 0).txBuf.wf ∧ (enc .idle 0 0).encPhase = .idle ∧ (rx true .handoff 1).live = true ∧
    (rx true .handoff 1).rxBuf.wf ∧ (rx true .handoff 1).txBuf.wf ∧ (rx true .handoff 1).rxPhase = .handoff := by decide
theorem witness_failed_steps : (txTurn (rx true .failed 1)).rxPhase = .failed ∧
    ends (step (txTurn (rx true .failed 1))) (fun s => s.rxPhase == .failed) = true := by decide
theorem witness_trace : ∃ t, runTrace [.rx 0xC0#8, evStatus] (rx true .start 0) = some t ∧
    (rx true .start 0).rxPort = [] ∧ (rx true .start 0).txTakes = 0 ∧ (rx true .start 0).hostPort = [] ∧
    (rx true .start 0).schedule = [] := ⟨_, rfl, rfl, rfl, rfl, rfl⟩
theorem witness_encode_step : (txTurn (enc .data 0 1)).encPhase ≠ .idle ∧
    ends (step (txTurn (enc .data 0 1))) (fun s => lastOut s == some (.emitted 0xDB#8)) = true ∧
    ends (step (rxTurn 0xC0#8 (enc .data 0 1))) (fun s => lastOut s != some (.emitted 0xDB#8)) = true ∧
    (hostTurn ⟨0x4#4, 1, 0, 0⟩ (enc .idle 0 0)).encPhase = .idle ∧
    ends (step (hostTurn ⟨0x4#4, 1, 0, 0⟩ (enc .idle 0 0))) (fun s => s.encPhase != .idle) = true := by decide
theorem witness_inv_encode_steps : (txTurn (enc .data 0 1)).Inv ∧ (hostTurn ⟨0x4#4, 1, 0, 0⟩ (enc .idle 0 0)).Inv := by
  constructor <;> constructor <;> decide
theorem witness_emitted : (enc .lead 0 3).live = true ∧ (enc .lead 0 3).encPhase = .lead ∧
    (wireEncode (enc .lead 0 3).sourceFrame).length = 7 := by decide
theorem witness_up_and_encode : ends (deliver .emit (enc .data 1 2)) (fun s => lastOut s == some (.emitted 0x41#8)) = true ∧
    ends (exec .ifdown (enc .data 1 2)) (fun s => s.encPhase == .data) = true := by decide
theorem witness_send : (rx true .start 0).live = true ∧ (rx true .start 0).up = true ∧
    (rx true .start 0).encPhase = .idle ∧ (rx true .start 0).txBuf.wf ∧
    [0xC0#8, 0x41#8, 0xDB#8, 0x00#8].length ≤ (rx true .start 0).cap := by decide
theorem witness_receive_round_trip : (rx true .start 0).live = true ∧ (rx true .start 0).up = true ∧
    (rx true .start 0).rxBuf.wf ∧ (rx true .start 0).rxPhase = .start ∧
    (rx true .body 0).live = true ∧ (rx true .body 0).rxPhase = .body ∧ (rx true .body 0).rxLen = 0 ∧
    1 ≤ [0xC0#8].length ∧ [0xC0#8, 0x41#8, 0xDB#8, 0x00#8].length ≤ (rx true .start 0).cap := by decide
theorem witness_frame_content : ∃ t, runTrace [.rx 0xC0#8, .rx 0x43#8, evStatus, .rx 0xC0#8] (rx true .start 0) = some t ∧
    t.rxPhase = .handoff ∧ (rx true .start 0).rxPhase = .start ∧ (rx true .start 0).rxLen = 0 :=
  ⟨_, rfl, rfl, rfl, rfl⟩
theorem witness_inv_start : (rx true .start 0).Inv := by constructor <;> decide
theorem witness_block : (hostTurn ⟨0x9#4, 0, 0, 0⟩ (rx true .body 1)).toBlock = ((rx true .body 1).emit 0x41#8).toBlock ∧
    (hostTurn ⟨0x9#4, 0, 0, 0⟩ (rx true .body 1)).maxpkt = ((rx true .body 1).emit 0x41#8).maxpkt ∧
    hostTurn ⟨0x9#4, 0, 0, 0⟩ (rx true .body 1) ≠ (rx true .body 1).emit 0x41#8 := by decide
theorem witness_resynchronisation : (rx true .body 2).live = true ∧ (rx true .body 2).up = true ∧
    (rx true .body 2).rxBuf.wf ∧ (rx true .body 4).rxLen ≤ (rx true .body 4).cap ∧
    (rx true .escaped 4).live = true ∧ (rx true .escaped 4).up = true ∧ (rx true .escaped 4).rxBuf.wf ∧
    (rx true .escaped 4).rxPhase = .escaped ∧ (rx true .escaped 4).rxLen ≤ (rx true .escaped 4).cap ∧
    [0xC0#8, 0x41#8, 0xDB#8, 0x00#8].length ≤ (rx true .body 2).cap := by decide
theorem witness_complete : ends (deliver (.rx 0xC0#8) (rx true .body 1))
    (fun s => s.outputs == (rx true .body 1).outputs ++ [.received .complete false]) = true := by decide
theorem witness_down : (rx true .escaped 3).live = true ∧ (rx true .escaped 3).rxPhase = .escaped ∧
    (rx true .body 3).live = true ∧ (rx true .body 3).rxPhase = .body := by decide
theorem witness_duty : (rx true .handoff 2).live = true ∧ (rx true .handoff 2).rxPhase = .handoff ∧
    (rx true .handoff 2).encPhase = .idle ∧ [0x01#8, 0x02#8, 0x03#8, 0x04#8].length ≤ (rx true .handoff 2).cap ∧
    (rx false .handoff 2).live = true ∧ (rx false .handoff 2).up = false := by decide

end Sys2Proof.Tests
end

section
/-! Running a turn and a step forwards: what each comes to, from what the agent offers. -/

namespace Sys2Proof.Machine

/-! ## The schedule is no part of what decides an event (00_scope.md R9) -/

@[simp] theorem State.offer_withSchedule (s : State) (l : List Agent) (a : Agent) :
    ({ s with schedule := l } : State).offer a = s.offer a := by cases a <;> rfl

@[simp] theorem State.context_withSchedule (s : State) (l : List Agent) :
    ({ s with schedule := l } : State).context = s.context := rfl

@[simp] theorem State.enabled_withSchedule (s : State) (l : List Agent) (i : Instr) :
    ({ s with schedule := l } : State).enabled i = s.enabled i := rfl

@[simp] theorem State.accepts_withSchedule (s : State) (l : List Agent) (e : Event) :
    ({ s with schedule := l } : State).accepts e = s.accepts e := rfl

/-! ## One turn, one step -/

/-- A turn whose event is enabled takes the event and executes its instruction. -/
theorem turn_of_enabled {a : Agent} {s : State} {e : Event} {i : Instr} (ho : s.offer a = some e)
    (hd : decode s.context e = .ok i) (hi : s.enabled i = true) : turn a s = exec i (s.take a) := by
  have ha : s.accepts e = true := (s.accepts_iff e).2 ⟨i, hd, hi⟩
  have hdt : decode (s.take a).context e = .ok i := by rw [State.context_take, hd]
  simp [turn, ho, ha, deliver_of_decode hdt]

/-- A turn whose event is not enabled holds: the event stays pending (60_exceptions.md R183). -/
theorem turn_of_held {a : Agent} {s : State} {e : Event} (ho : s.offer a = some e)
    (ha : s.accepts e = false) : turn a s = .next s := by
  simp [turn, ho, ha]

/-- With no run mark set, a step is the turn of the agent the schedule names next. -/
theorem step_of_live {s : State} {a : Agent} {rest : List Agent} (hl : s.live = true)
    (hs : s.schedule = a :: rest) : step s = turn a { s with schedule := rest } := by
  obtain ⟨hf, hr⟩ := s.live_iff.1 hl
  simp [step, hf, hr, hs]

/-- Settles O32: a step of an unmarked run is the next agent's turn, which runs the offered event's instruction if it is
enabled and holds the event if it is not. -/
theorem stepRunsTheDecodedEvent : Obligations.StepRunsTheDecodedEvent := by
  intro s a rest e hl hs ho
  rw [step_of_live hl hs]
  have ho' : ({ s with schedule := rest } : State).offer a = some e := by simpa using ho
  exact ⟨fun i hd hi => turn_of_enabled ho' (by simpa using hd) (by simpa using hi),
    fun ha => turn_of_held ho' (by simpa using ha)⟩

end Sys2Proof.Machine
end

section
/-! One step seen from the block, and the rules by which the invariants of 10_state.md R35 are kept. -/

namespace Sys2Proof.Machine

/-- A step either leaves the block and MAXPKT as they are, or ends in the effect of an instruction that is enabled in a
state with the same block and MAXPKT. -/
theorem step_effect {s t : State} (h : step s = .next t) :
    (t.toBlock = s.toBlock ∧ t.maxpkt = s.maxpkt) ∨
      ∃ p i, p.toBlock = s.toBlock ∧ p.maxpkt = s.maxpkt ∧ p.enabled i = true ∧ t = effect p i := by
  obtain ⟨-, ⟨-, rfl⟩ | ⟨a, rest, -, rfl | ⟨e, i, -, -, hi, hx⟩⟩⟩ := step_cases h
  · exact .inl ⟨rfl, rfl⟩
  · exact .inl ⟨rfl, rfl⟩
  · have hp : (({ s with schedule := rest } : State).take a).enabled i = true := by simpa using hi
    rw [exec_of_enabled hp] at hx
    cases hx
    exact .inr ⟨_, i, by simp, by simp, hp, rfl⟩

/-! ## The invariants at reset, and what they depend on -/

theorem State.resetWith_inv (m : Nat) : (State.resetWith m).Inv := by
  constructor <;> simp [Block.reset, Memory.wf, Memory.within]

/-- Settles O39: at reset both lengths are 0, no phase has begun and both buffers list nothing. -/
theorem invariantHoldsAtReset : Obligations.InvariantHoldsAtReset :=
  ⟨State.reset_eq ▸ State.resetWith_inv _, State.resetWith_inv⟩

/-- The invariants speak of the block and MAXPKT alone. -/
theorem State.Inv.congr {s t : State} (h : s.Inv) (hb : t.toBlock = s.toBlock) (hm : t.maxpkt = s.maxpkt) : t.Inv := by
  have hc := State.cap_congr hm
  obtain ⟨h1, h2, h3, h4, h5, h6, h7, h8, h9, h10, h11, h12⟩ := h
  constructor <;> simpa only [hb, hc]

theorem State.Inv.result {s : State} (h : s.Inv) (c : RxResult) (f : Bool) : (s.result c f).Inv := h.congr rfl rfl
theorem State.Inv.emit {s : State} (h : s.Inv) (b : Byte) : (s.emit b).Inv := h.congr rfl rfl
theorem State.Inv.respond {s : State} (h : s.Inv) (r : Response) : (s.respond r).Inv := h.congr rfl rfl

/-! ## The invariants through the state's operations -/

/-- No invariant speaks of the run marks. -/
theorem State.Inv.raise {s : State} (h : s.Inv) (f : Fault) : (s.raise f).Inv := { h with }

theorem State.Inv.refuse {s : State} (h : s.Inv) : s.refuse.Inv := { h with }

/-- No invariant speaks of `UP`. -/
theorem State.Inv.setUp {s : State} (h : s.Inv) (u : Bool) : ({ s with up := u } : State).Inv := { h with }

/-- A write at an index of the buffers. -/
theorem State.Inv.writeByte {s : State} (h : s.Inv) (sp : Space) {a : Nat} (v : Byte) (ha : a < s.cap) :
    (s.writeByte sp a v).Inv := by
  cases sp with
  | rxbuf => exact { h with
      rxBuf_wf := Memory.write_wf h.rxBuf_wf, rxBuf_within := Memory.write_within h.rxBuf_within ha }
  | txbuf => exact { h with
      txBuf_wf := Memory.write_wf h.txBuf_wf, txBuf_within := Memory.write_within h.txBuf_within ha }

/-- The receive path moves on, neither from nor to a reply. -/
theorem State.Inv.setReceive {s : State} (h : s.Inv) {p : RxPhase} {n : Nat} (hs : s.rxPhase ≠ .reply)
    (hp : p ≠ .reply) (hn : n ≤ s.cap) (hh : p = .handoff → 1 ≤ n) :
    ({ s with rxPhase := p, rxLen := n } : State).Inv :=
  { h with
    rxLen_le := hn
    handoff_nonempty := hh
    reply_iff := iff_of_false hp (h.reply_iff.not.1 hs)
    reply_empty := fun hr => absurd hr hp }

/-- STORE leaves the receive phase as it is, so it keeps the invariants outside a reply. -/
theorem State.Inv.store {s : State} (h : s.Inv) (hs : s.rxPhase ≠ .reply) (v : Byte) : (s.store v).Inv := by
  rcases Nat.lt_or_ge s.rxLen s.cap with hc | hc
  · rw [State.store_below v hc]
    have hw := h.writeByte .rxbuf v hc
    exact hw.setReceive hs hs hc fun _ => Nat.le_add_left 1 _
  · rwa [State.store_full v hc]

/-- STORE and the end of an escape (40_receive.md R108 to R110). -/
theorem State.Inv.storeToBody {s : State} (h : s.Inv) (hs : s.rxPhase ≠ .reply) (v : Byte) :
    ({ s.store v with rxPhase := .body } : State).Inv :=
  (h.store hs v).setReceive (by simpa using hs) (by simp) (h.store hs v).rxLen_le (by simp)

/-- The encoder moves on in the frame it is on. -/
theorem State.Inv.setEncode {s : State} (h : s.Inv) {q : EncPhase} {k : Nat} {c : Byte} (hs : s.encPhase ≠ .idle)
    (hq : q ≠ .idle) (hk : k ≤ s.encLen) (hl : q = .lead → k = 0)
    (hc : q = .esc2 → (c = ESC_END ∨ c = ESC_ESC) ∧ k < s.encLen) :
    ({ s with encPhase := q, encIdx := k, encCode := c } : State).Inv :=
  { h with
    reply_iff := by simpa [hs, hq] using h.reply_iff
    encIdx_le := hk
    esc2_code := hc
    lead_first := hl }

/-- The encoder starts on a frame of `tx_buf`, with no reply under way. -/
theorem State.Inv.startSend {s : State} (h : s.Inv) {n : Nat} (hi : s.encPhase = .idle) (hn : n ≤ s.cap) :
    (s.startEncode .txbuf n).Inv :=
  { h with
    reply_iff := iff_of_false (fun hr => (h.reply_iff.1 hr).1 hi) (by simp)
    encIdx_le := Nat.zero_le _
    encLen_le := hn
    esc2_code := by simp
    lead_first := fun _ => rfl }

/-- The encoder starts on a reply: the receive path gives the buffer up. -/
theorem State.Inv.startReply {s : State} (h : s.Inv) {n : Nat} (hn : n ≤ s.cap) :
    (({ s with rxLen := 0, rxPhase := .reply } : State).startEncode .rxbuf n).Inv :=
  { h with
    rxLen_le := Nat.zero_le _
    handoff_nonempty := by simp
    reply_iff := by simp
    reply_empty := fun _ => rfl
    encIdx_le := Nat.zero_le _
    encLen_le := hn
    esc2_code := by simp
    lead_first := fun _ => rfl }

/-- The encoder ends its frame, and no reply is left under way. -/
theorem State.Inv.endEncode {s : State} (h : s.Inv) {p : RxPhase} (hp : p ≠ .reply) (hh : p = .handoff → 1 ≤ s.rxLen) :
    ({ s with encPhase := .idle, rxPhase := p } : State).Inv :=
  { h with
    handoff_nonempty := hh
    reply_iff := iff_of_false hp (by simp)
    reply_empty := fun hr => absurd hr hp
    esc2_code := by simp
    lead_first := by simp }

/-! ## Every instruction keeps the invariants -/

/-- The phases that take bytes (10_state.md R31). -/
theorem rxPhase_ready_iff {p : RxPhase} : p.ready = true ↔ p = .start ∨ p = .body ∨ p = .escaped := by
  cases p <;> decide

theorem ne_reply_of_ready {p : RxPhase} (h : p.ready = true) : p ≠ .reply := by
  rintro rfl; cases h

/-- A receive class has its row in the phases that take bytes (30_encoding.md R76; 40_receive.md R111). -/
theorem ready_of_selects {c : DecodeContext} {i : Instr} (h : selects c i = true)
    (hi : (encode i).agent = .receivePort) : c.rxPhase.ready = true := by
  cases i <;> cases hi <;> simp_all [selects, rxPhase_ready_iff]

/-- An emission class has its row where the encoder is on a frame (30_encoding.md R79). -/
theorem encPhase_of_selects {c : DecodeContext} {i : Instr} (h : selects c i = true)
    (hi : (encode i).agent = .transmitPort) : c.encPhase ≠ .idle := by
  cases i <;> cases hi <;> simp_all [selects]

/-- A source byte is emitted, escaped or not, in DATA and below the frame's length (30_encoding.md R79). -/
theorem source_of_selects {c : DecodeContext} {i : Instr} (h : selects c i = true) (hi : i = .txEsc ∨ i = .txData) :
    c.encPhase = .data ∧ c.encIdx < c.encLen := by
  rcases hi with rfl | rfl <;> simp [selects] at h <;> exact h.1

/-- While up with a length that fits, TXSTART is enabled with the encoder idle only (42_host.md R155). -/
theorem State.encPhase_of_txstart {s : State} {n : Nat} (hb : s.busyHold (.txstart n) = false)
    (hn : s.lengthOk n = true) (hu : s.up = true) : s.encPhase = .idle := by
  simpa [State.busyHold, hn, hu, State.txBusy] using hb

/-- 10_state.md R35 items 1 to 7: an enabled instruction's effect keeps them. -/
theorem State.Inv.effect_of_enabled {s : State} {i : Instr} (h : s.Inv) (he : s.enabled i = true) : (effect s i).Inv := by
  obtain ⟨-, hsel, hbusy⟩ := (s.enabled_iff i).1 he
  have hready (hi : (encode i).agent = .receivePort) : s.rxPhase ≠ .reply :=
    ne_reply_of_ready (ready_of_selects hsel hi)
  have hphase (hi : (encode i).agent = .transmitPort) : s.encPhase ≠ .idle := encPhase_of_selects hsel hi
  have hpos : 0 < s.cap := Nat.lt_of_lt_of_le (by decide) s.two_le_cap
  cases i with
  | rxDiscard b => exact h.result _ _
  | rxStartEnd => exact (h.setReceive (hready rfl) (by simp) (Nat.zero_le _) (by simp)).result _ _
  | rxStartData b =>
    have hw := h.writeByte .rxbuf b hpos
    exact (hw.setReceive (hready rfl) (by simp) hpos (by simp)).result _ _
  | rxEnd =>
    simp only [effect]
    split
    · next hlen => exact (h.setReceive (hready rfl) (by simp) h.rxLen_le fun _ => hlen).result _ _
    · exact h.result _ _
  | rxEsc => exact (h.setReceive (hready rfl) (by simp) h.rxLen_le (by simp)).result _ _
  | rxData b => exact (h.store (hready rfl) b).result _ _
  | rxEscEnd => exact (h.storeToBody (hready rfl) END).result _ _
  | rxEscEsc => exact (h.storeToBody (hready rfl) ESC).result _ _
  | rxEscBad b => exact (h.storeToBody (hready rfl) b).result _ _
  | rxErr => exact h.setReceive (hready rfl) (by simp) h.rxLen_le (by simp)
  | txLead => exact (h.setEncode (hphase rfl) (by simp) h.encIdx_le (by simp) (by simp)).emit _
  | txTrail =>
    refine (h.endEncode ?_ ?_).emit _
    · split
      · simp
      · next hsrc => exact fun hr => hsrc (h.reply_iff.1 hr).2
    · split
      · simp
      · exact h.handoff_nonempty
  | txEsc =>
    have hlt : s.encIdx < s.encLen := (source_of_selects hsel (.inl rfl)).2
    refine (h.setEncode (hphase rfl) (by simp) h.encIdx_le (by simp) fun _ => ⟨?_, hlt⟩).emit _
    split <;> simp
  | txData =>
    obtain ⟨hdata, hlt⟩ : s.encPhase = .data ∧ s.encIdx < s.encLen := source_of_selects hsel (.inr rfl)
    exact (h.setEncode (hphase rfl) (hphase rfl) hlt (by simp [hdata]) (by simp [hdata])).emit _
  | txCode =>
    have hesc : s.encPhase = .esc2 := by simpa [selects] using hsel
    exact (h.setEncode (hphase rfl) (by simp) (h.esc2_code hesc).2 (by simp) (by simp)).emit _
  | ifup =>
    refine State.Inv.respond ?_ _
    split
    · exact h
    · split
      · next hr => exact (h.setUp true).setReceive (ne_reply_of_ready hr) (by simp) (Nat.zero_le _) (by simp)
      · exact h.setUp true
  | ifdown => exact (h.setUp false).respond _
  | ack n =>
    simp only [effect]
    split
    · exact h.raise _
    next hn =>
    split
    · exact h.raise _
    next hv =>
    have hp : s.rxPhase = .handoff := by simpa [State.frameValid] using hv
    have hrelease : ({ s with rxLen := 0, rxPhase := .start } : State).Inv :=
      h.setReceive (by simp [hp]) (by simp) (Nat.zero_le _) (by simp)
    split
    · exact hrelease.respond _
    split
    · exact hrelease.respond _
    · exact (h.startReply (by simpa [State.lengthOk] using hn)).respond _
  | txstart n =>
    simp only [effect]
    split
    · exact h.raise _
    next hn =>
    split
    · exact h.respond _
    next hu =>
    have hi := State.encPhase_of_txstart hbusy (by simpa using hn) (by simpa using hu)
    exact (h.startSend hi (by simpa [State.lengthOk] using hn)).respond _
  | wtx k v =>
    simp only [effect]
    split
    · exact h.raise _
    next hk =>
    split
    · exact h.raise _
    · exact (h.writeByte .txbuf v (by simpa [State.indexOk] using hk)).respond _
  | rtx k =>
    simp only [effect]
    split
    · exact h.raise _
    · exact h.respond _
  | wrx k v =>
    simp only [effect]
    split
    · exact h.raise _
    next hk =>
    split
    · exact h.raise _
    · exact (h.writeByte .rxbuf v (by simpa [State.indexOk] using hk)).respond _
  | rrx k =>
    simp only [effect]
    split
    · exact h.raise _
    split
    · exact h.raise _
    · exact h.respond _
  | status => exact h.respond _
  | reserved0 | reservedA | reservedB | reservedC | reservedD | reservedE | reservedF => exact h.refuse

/-- Settles O40: a step changes nothing the invariants speak of, or is an enabled instruction's effect, which keeps them. -/
theorem invariantKeptByEveryStep : Obligations.InvariantKeptByEveryStep := by
  intro s t h hstep
  obtain ⟨hb, hm⟩ | ⟨p, i, hb, hm, hi, rfl⟩ := step_effect hstep
  · exact h.congr hb hm
  · exact (h.congr hb hm).effect_of_enabled hi

end Sys2Proof.Machine
end

section
/-! What an instruction does is decided by the block and MAXPKT alone (10_state.md R20). -/

namespace Sys2Proof.Machine

/-- The block and MAXPKT of a state, with nothing pending at any agent and no output yet. -/
def State.bare (s : State) : State :=
  { s with rxPort := [], txTakes := 0, hostPort := [], schedule := [], outputs := [] }

/-- Two states with the same block and MAXPKT are one bare state. -/
theorem State.bare_congr {s t : State} (hb : s.toBlock = t.toBlock) (hm : s.maxpkt = t.maxpkt) : s.bare = t.bare := by
  simp only [State.bare, hb, hm]

@[simp] theorem State.bare_toBlock (s : State) : s.bare.toBlock = s.toBlock := rfl
@[simp] theorem State.bare_outputs (s : State) : s.bare.outputs = [] := rfl
@[simp] theorem State.bare_lengthOk (s : State) (n : Nat) : s.bare.lengthOk n = s.lengthOk n := rfl
@[simp] theorem State.bare_indexOk (s : State) (k : Nat) : s.bare.indexOk k = s.indexOk k := rfl
@[simp] theorem State.bare_frameValid (s : State) : s.bare.frameValid = s.frameValid := rfl
@[simp] theorem State.bare_rxReady (s : State) : s.bare.rxReady = s.rxReady := rfl
@[simp] theorem State.bare_txBufOwned (s : State) : s.bare.txBufOwned = s.txBufOwned := rfl
@[simp] theorem State.bare_statusRecord (s : State) : s.bare.statusRecord = s.statusRecord := rfl
@[simp] theorem State.bare_readByte (s : State) (sp : Space) (a : Nat) : s.bare.readByte sp a = s.readByte sp a := by
  cases sp <;> rfl
@[simp] theorem State.bare_src (s : State) (k : Nat) : s.bare.src k = s.src k := by simp [State.src]
@[simp] theorem State.bare_context (s : State) : s.bare.context = s.context := rfl
@[simp] theorem State.bare_enabled (s : State) (i : Instr) : s.bare.enabled i = s.enabled i := by
  cases i <;> rfl
@[simp] theorem State.bare_accepts (s : State) (e : Event) : s.bare.accepts e = s.accepts e := by
  simp [State.accepts]

@[simp] theorem State.bare_writeByte (s : State) (sp : Space) (a : Nat) (v : Byte) :
    s.bare.writeByte sp a v = (s.writeByte sp a v).bare := by
  cases sp <;> rfl
@[simp] theorem State.bare_store (s : State) (v : Byte) : s.bare.store v = (s.store v).bare := by
  have hc : s.bare.cap = s.cap := rfl
  rcases Nat.lt_or_ge s.rxLen s.cap with h | h
  · rw [State.store_below v h, State.store_below v (by simpa [hc] using h)]; rfl
  · rw [State.store_full v h, State.store_full v (by simpa [hc] using h)]

/-- The state `s` comes to when its block becomes that of `t` and the outputs of `t` are appended to its own. -/
def State.advance (s t : State) : State := { s with toBlock := t.toBlock, outputs := s.outputs ++ t.outputs }

@[simp] theorem State.advance_mk (s : State) (b : Block) (m : Nat) (rx : List RxOffer) (tx : Nat)
    (hc : List CommandWord) (l : List Agent) (os : List Output) :
    s.advance ⟨b, m, rx, tx, hc, l, os⟩ = { s with toBlock := b, outputs := s.outputs ++ os } := rfl
@[simp] theorem State.advance_ite (s t u : State) (c : Prop) [Decidable c] :
    s.advance (if c then t else u) = if c then s.advance t else s.advance u := apply_ite s.advance c t u
@[simp] theorem State.advance_result (s t : State) (c : RxResult) (f : Bool) :
    s.advance (t.result c f) = (s.advance t).result c f := by simp [State.advance, State.result]
@[simp] theorem State.advance_emit (s t : State) (b : Byte) : s.advance (t.emit b) = (s.advance t).emit b := by
  simp [State.advance, State.emit]
@[simp] theorem State.advance_respond (s t : State) (r : Response) :
    s.advance (t.respond r) = (s.advance t).respond r := by simp [State.advance, State.respond]
@[simp] theorem State.advance_raise (s t : State) (f : Fault) : s.advance (t.raise f) = (s.advance t).raise f := rfl
@[simp] theorem State.advance_refuse (s t : State) : s.advance t.refuse = (s.advance t).refuse := rfl
@[simp] theorem State.advance_startEncode (s t : State) (x : EncSrc) (n : Nat) :
    s.advance (t.startEncode x n) = (s.advance t).startEncode x n := rfl
@[simp] theorem State.advance_bare (s : State) : s.advance s.bare = s := by simp [State.advance]
@[simp] theorem State.advance_writeByte (s : State) (sp : Space) (a : Nat) (v : Byte) :
    s.advance (s.writeByte sp a v).bare = s.writeByte sp a v := by
  cases sp <;> simp [State.advance, State.writeByte]
@[simp] theorem State.advance_store (s : State) (v : Byte) : s.advance (s.store v).bare = s.store v := by
  rcases Nat.lt_or_ge s.rxLen s.cap with h | h
  · rw [State.store_below v h]; simp [State.advance, State.writeByte]
  · rw [State.store_full v h, State.advance_bare]

/-- An instruction's effect is its effect on the bare state: it reads the block and MAXPKT, changes the block, and appends
its outputs. -/
theorem effect_eq_advance (s : State) (i : Instr) : effect s i = s.advance (effect s.bare i) := by
  cases i with
  | rxEnd => by_cases hl : 0 < s.rxLen <;> simp [effect, hl]
  | txTrail => cases hsrc : s.encSrc <;> simp [effect, hsrc]
  | ifup => cases hu : s.up <;> cases hr : s.rxReady <;> simp [effect, hu, hr]
  | _ => simp [effect]

/-- Executing an instruction, enabled or held, is executing it in the bare state. -/
theorem exec_eq_advance (i : Instr) (s : State) :
    ∃ u, exec i s.bare = .next u ∧ exec i s = .next (s.advance u) := by
  cases he : s.enabled i
  · exact ⟨s.bare, exec_of_held (by simpa using he), by rw [exec_of_held he, s.advance_bare]⟩
  · exact ⟨effect s.bare i, exec_of_enabled (by simpa using he),
      by rw [exec_of_enabled he, effect_eq_advance s i]⟩

theorem deliver_eq_advance (e : Event) (s : State) :
    ∃ u, deliver e s.bare = .next u ∧ deliver e s = .next (s.advance u) := by
  cases hd : decode s.context e with
  | error r => exact ⟨s.bare, by simp [deliver, hd], by simp [deliver, hd]⟩
  | ok i =>
    rw [deliver_of_decode hd, deliver_of_decode (s := s.bare) hd]
    exact exec_eq_advance i s

/-- Settles O60: two states with the same block and MAXPKT have one bare state, which decides for both. -/
theorem blockAndEventDecideTheStep : Obligations.BlockAndEventDecideTheStep := by
  intro e s t hb hm
  have hbare : s.bare = t.bare := State.bare_congr hb hm
  obtain ⟨u, hu, hs⟩ := deliver_eq_advance e s
  obtain ⟨v, hv, ht⟩ := deliver_eq_advance e t
  obtain rfl : u = v := by rw [hbare, hv] at hu; cases hu; rfl
  refine ⟨?_, u.toBlock, u.outputs, hs, ht⟩
  rw [← s.bare_accepts, ← t.bare_accepts, hbare]

end Sys2Proof.Machine
end

section
/-! The writers of every field (10_state.md R21 to R30), and what follows from them of a handoff and of the run marks. -/

namespace Sys2Proof.Machine

/-! ## The writers, field by field

An instruction that is no writer of the field leaves it alone by the field's lemmas in Laws/State, in every branch of its
body. -/

theorem writer_of_up {s : State} {i : Instr} (h : (effect s i).up ≠ s.up) : i = .ifup ∨ i = .ifdown := by
  cases i <;> simp [effect, apply_ite State.toBlock, apply_ite Block.up] at h ⊢

theorem writer_of_rxBuf {s : State} {i : Instr} (h : (effect s i).rxBuf ≠ s.rxBuf) :
    (∃ b, i = .rxStartData b ∨ i = .rxData b ∨ i = .rxEscBad b) ∨ i = .rxEscEnd ∨ i = .rxEscEsc ∨
      ∃ k v, i = .wrx k v := by
  cases i <;> simp [effect, apply_ite State.toBlock, apply_ite Block.rxBuf] at h ⊢

theorem writer_of_rxLen {s : State} {i : Instr} (h : (effect s i).rxLen ≠ s.rxLen) :
    (∃ b, i = .rxStartData b ∨ i = .rxData b ∨ i = .rxEscBad b) ∨ i = .rxStartEnd ∨
      i = .rxEscEnd ∨ i = .rxEscEsc ∨ i = .ifup ∨ ∃ n, i = .ack n := by
  cases i <;> simp [effect, apply_ite State.toBlock, apply_ite Block.rxLen] at h ⊢

theorem writer_of_rxPhase {s : State} {i : Instr} (h : (effect s i).rxPhase ≠ s.rxPhase) :
    (∃ b, i = .rxStartData b ∨ i = .rxEscBad b) ∨ i = .rxStartEnd ∨ i = .rxEnd ∨
      i = .rxEsc ∨ i = .rxEscEnd ∨ i = .rxEscEsc ∨ i = .rxErr ∨ i = .txTrail ∨ i = .ifup ∨ ∃ n, i = .ack n := by
  cases i <;> simp [effect, apply_ite State.toBlock, apply_ite Block.rxPhase] at h ⊢

theorem writer_of_txBuf {s : State} {i : Instr} (h : (effect s i).txBuf ≠ s.txBuf) : ∃ k v, i = .wtx k v := by
  cases i <;> simp [effect, apply_ite State.toBlock, apply_ite Block.txBuf] at h ⊢

theorem writer_of_encPhase {s : State} {i : Instr} (h : (effect s i).encPhase ≠ s.encPhase) :
    i = .txLead ∨ i = .txTrail ∨ i = .txEsc ∨ i = .txCode ∨ ∃ n, i = .ack n ∨ i = .txstart n := by
  cases i <;> simp [effect, apply_ite State.toBlock, apply_ite Block.encPhase] at h ⊢

theorem writer_of_encSrc {s : State} {i : Instr} (h : (effect s i).encSrc ≠ s.encSrc) :
    ∃ n, i = .ack n ∨ i = .txstart n := by
  cases i <;> simp [effect, apply_ite State.toBlock, apply_ite Block.encSrc] at h ⊢

theorem writer_of_encLen {s : State} {i : Instr} (h : (effect s i).encLen ≠ s.encLen) :
    ∃ n, i = .ack n ∨ i = .txstart n := by
  cases i <;> simp [effect, apply_ite State.toBlock, apply_ite Block.encLen] at h ⊢

theorem writer_of_encIdx {s : State} {i : Instr} (h : (effect s i).encIdx ≠ s.encIdx) :
    i = .txData ∨ i = .txCode ∨ ∃ n, i = .ack n ∨ i = .txstart n := by
  cases i <;> simp [effect, apply_ite State.toBlock, apply_ite Block.encIdx] at h ⊢

theorem writer_of_encCode {s : State} {i : Instr} (h : (effect s i).encCode ≠ s.encCode) : i = .txEsc := by
  cases i <;> simp [effect, apply_ite State.toBlock, apply_ite Block.encCode] at h ⊢

/-! ## What no instruction writes -/

@[simp] theorem effect_maxpkt (s : State) (i : Instr) : (effect s i).maxpkt = s.maxpkt := by
  rw [effect_eq_advance]; rfl
@[simp] theorem effect_rxPort (s : State) (i : Instr) : (effect s i).rxPort = s.rxPort := by
  rw [effect_eq_advance]; rfl
@[simp] theorem effect_txTakes (s : State) (i : Instr) : (effect s i).txTakes = s.txTakes := by
  rw [effect_eq_advance]; rfl
@[simp] theorem effect_hostPort (s : State) (i : Instr) : (effect s i).hostPort = s.hostPort := by
  rw [effect_eq_advance]; rfl
@[simp] theorem effect_schedule (s : State) (i : Instr) : (effect s i).schedule = s.schedule := by
  rw [effect_eq_advance]; rfl

/-- Settles O42: an instruction that takes effect writes a field only as one of its writers, and a held one writes none. -/
theorem fieldsAreWrittenByTheirWritersOnly : Obligations.FieldsAreWrittenByTheirWritersOnly := by
  intro i s t h
  obtain ⟨-, rfl⟩ | ⟨-, rfl⟩ := exec_cases h
  · exact ⟨writer_of_up, writer_of_rxBuf, writer_of_rxLen, writer_of_rxPhase, writer_of_txBuf, writer_of_encPhase,
      writer_of_encSrc, writer_of_encLen, writer_of_encIdx, writer_of_encCode, by simp⟩
  · simp

/-! ## A handoff begins with the END of a frame that is not empty -/

/-- The frame assembled is made of `rx_buf` and `rx_len` alone. -/
theorem State.frame_congr {s t : State} (hb : t.rxBuf = s.rxBuf) (hl : t.rxLen = s.rxLen) : t.frame = s.frame := by
  unfold State.frame
  rw [hl]
  exact State.bytes_congr fun k _ => by simp [hb]

/-- Among the writers of `rx_phase` only RX.END on a frame that is not empty presents it (40_receive.md R105). -/
theorem handoff_begins_with_rxEnd {s : State} {i : Instr} (hs : s.rxPhase ≠ .handoff)
    (ht : (effect s i).rxPhase = .handoff) :
    i = .rxEnd ∧ 0 < s.rxLen ∧ effect s i = ({ s with rxPhase := .handoff } : State).result .complete false := by
  cases i with
  | rxEnd =>
    have hl : 0 < s.rxLen := by
      by_contra hl
      simp [effect, hl, hs] at ht
    exact ⟨rfl, hl, by simp [effect, hl]⟩
  | txTrail | ifup | ack =>
    simp only [effect, apply_ite State.toBlock, apply_ite Block.rxPhase, State.emit_toBlock, State.respond_toBlock,
      State.raise_rxPhase, State.startEncode_rxPhase] at ht
    split_ifs at ht <;> simp [hs] at ht
  | _ => simp [effect, apply_ite State.toBlock, apply_ite Block.rxPhase, hs] at ht

/-- Settles O41: a step that begins a handoff is RX.END, which is enabled only while `UP` is 1 and keeps the buffer. -/
theorem handoffBeginsOnlyWhileUp : Obligations.HandoffBeginsOnlyWhileUp := by
  intro s t hstep hs ht
  obtain ⟨hb, -⟩ | ⟨p, i, hb, -, hi, rfl⟩ := step_effect hstep
  · exact absurd (hb ▸ ht) hs
  · obtain ⟨rfl, hl, heq⟩ := handoff_begins_with_rxEnd (hb ▸ hs) ht
    obtain ⟨-, hsel, -⟩ := (p.enabled_iff _).1 hi
    have hup : p.up = true := by
      simp [selects] at hsel
      exact hsel.1
    rw [heq]
    exact ⟨hb ▸ hup, hup, hl, State.frame_congr (by simp [hb]) (by simp [hb])⟩

/-! ## The run marks -/

/-- From a marked state no instruction is enabled, so none changes anything (60_exceptions.md R181, R182). -/
theorem exec_of_marked {s : State} (h : s.live = false) (i : Instr) : exec i s = .next s :=
  exec_of_held (by simp [State.enabled, h])

theorem deliver_of_marked {s : State} (h : s.live = false) (e : Event) : deliver e s = .next s := by
  unfold deliver
  split
  · exact exec_of_marked h _
  · rfl

/-- What keeps every marked state keeps the marks. -/
theorem marks_kept {s t : State} (h : s.live = false → t = s) :
    (∀ f, s.fault = some f → t.fault = some f) ∧ (s.refused = true → t.refused = true) := by
  refine ⟨fun f hf => ?_, fun hr => ?_⟩
  · rwa [h (by simp [State.live, hf])]
  · rwa [h (by simp [State.live, hr])]

/-- Settles O33: reset sets no mark, and from a marked state nothing changes. -/
theorem runMarksAreNeverCleared : Obligations.RunMarksAreNeverCleared := by
  refine ⟨⟨rfl, rfl⟩, fun i s t h => marks_kept fun hm => ?_, fun e s t h => marks_kept fun hm => ?_⟩
  · rw [exec_of_marked hm] at h; cases h; rfl
  · rw [deliver_of_marked hm] at h; cases h; rfl

end Sys2Proof.Machine
end

section
/-! The host's buffer commands run forwards in a trace (42_host.md R156 to R159), and read after write through them
(20_memory.md R59). -/

namespace Sys2Proof.Machine

/-! ## Writes and responses, as later commands see them -/

@[simp] theorem State.respond_live (s : State) (r : Response) : (s.respond r).live = s.live := rfl

@[simp] theorem State.writeByte_live (s : State) (sp : Space) (a : Nat) (v : Byte) :
    (s.writeByte sp a v).live = s.live := by simp [State.live]

theorem State.txBufOwned_eq_false_iff (s : State) :
    s.txBufOwned = false ↔ s.encPhase = .idle ∨ s.encSrc = .rxbuf := by
  cases he : s.encSrc <;> simp [State.txBufOwned, State.txBusy, he]

/-! ## One buffer command at the head of a trace -/

section
variable {s : State} {i : Nat} {v : Byte} {es : List Event}

/-- WTX within the buffer, while the encoder does not read it (42_host.md R156). -/
theorem runTrace_wtx (hl : s.live = true) (hi : i < s.cap) (ho : s.encPhase = .idle ∨ s.encSrc = .rxbuf) :
    runTrace (evWtx i v :: es) s = runTrace es ((s.writeByte .txbuf i v).respond .ok) := by
  have he : s.enabled (.wtx i v) = true := (s.enabled_iff _).2 ⟨hl, rfl, rfl⟩
  rw [runTrace_cons rfl he]
  simp [effect, State.indexOk, hi, s.txBufOwned_eq_false_iff.2 ho]

/-- RTX within the buffer, whatever the encoder does (42_host.md R157). -/
theorem runTrace_rtx (hl : s.live = true) (hi : i < s.cap) :
    runTrace (evRtx i :: es) s = runTrace es (s.respond (.byte (s.readByte .txbuf i))) := by
  have he : s.enabled (.rtx i) = true := (s.enabled_iff _).2 ⟨hl, rfl, rfl⟩
  rw [runTrace_cons rfl he]
  simp [effect, State.indexOk, hi]

/-- WRX within the buffer, while a frame is presented (42_host.md R158). -/
theorem runTrace_wrx (hl : s.live = true) (hi : i < s.cap) (hp : s.rxPhase = .handoff) :
    runTrace (evWrx i v :: es) s = runTrace es ((s.writeByte .rxbuf i v).respond .ok) := by
  have he : s.enabled (.wrx i v) = true := (s.enabled_iff _).2 ⟨hl, rfl, rfl⟩
  rw [runTrace_cons rfl he]
  simp [effect, State.indexOk, hi, State.frameValid, hp]

/-- RRX within the buffer, while a frame is presented (42_host.md R159). -/
theorem runTrace_rrx (hl : s.live = true) (hi : i < s.cap) (hp : s.rxPhase = .handoff) :
    runTrace (evRrx i :: es) s = runTrace es (s.respond (.byte (s.readByte .rxbuf i))) := by
  have he : s.enabled (.rrx i) = true := (s.enabled_iff _).2 ⟨hl, rfl, rfl⟩
  rw [runTrace_cons rfl he]
  simp [effect, State.indexOk, hi, State.frameValid, hp]

end

/-! ## Read after write -/

@[simp] theorem State.readByte_respond (s : State) (r : Response) (sp : Space) (a : Nat) :
    (s.respond r).readByte sp a = s.readByte sp a := by cases sp <;> rfl

/-- A write answered with OK, then the byte read there as the response: in either space the byte is the one written. -/
theorem State.outputs_write_then_read {s : State} {sp : Space} {i : Nat} {v : Byte} (h : (s.buffer sp).wf) :
    (((s.writeByte sp i v).respond .ok).respond
        (.byte (((s.writeByte sp i v).respond .ok).readByte sp i))).outputs =
      s.outputs ++ [.responded .ok, .responded (.byte v)] := by
  rw [State.readByte_respond, State.readByte_writeByte_same h]
  simp

/-- Settles O44: neither write sets a run mark or moves a phase, so the read after it is enabled and within the same
buffer, and it reads the byte written. -/
theorem hostReadsBackWhatItWrote : Obligations.HostReadsBackWhatItWrote := by
  intro s i v hl hi hrx htx
  refine ⟨fun ho => ?_, fun hp => ?_⟩
  · rw [runTrace_wtx hl hi ho, runTrace_rtx (by simpa using hl) (by simpa using hi)]
    exact ⟨_, runTrace_nil _, State.outputs_write_then_read htx⟩
  · rw [runTrace_wrx hl hi hp, runTrace_rrx (by simpa using hl) (by simpa using hi) (by simpa using hp)]
    exact ⟨_, runTrace_nil _, State.outputs_write_then_read hrx⟩

end Sys2Proof.Machine
end

section
/-! The decoder and the encoder undo each other (30_encoding.md R76, R79, R80, R81). -/

namespace Sys2Proof

/-! ## From an instruction to its event and back -/

/-- A selected row's extra condition is the instruction's well-formedness (30_encoding.md R76). -/
theorem wf_of_selects {c : DecodeContext} {i : Instr} (h : selects c i = true) : i.wf = true := by
  cases i with
  | rxStartData b | rxData b | rxEscBad b => exact (Bool.and_eq_true_iff.1 h).2
  | _ => rfl

/-- A context of each row: UP, the phases and the source byte its row asks for (30_encoding.md R76, R79). -/
def rowContext : Instr → DecodeContext
  | .rxDiscard _ => ⟨false, .start, .idle, 0, 0, 0#8⟩
  | .rxEnd | .rxEsc | .rxData _ => ⟨true, .body, .idle, 0, 0, 0#8⟩
  | .rxEscEnd | .rxEscEsc | .rxEscBad _ => ⟨true, .escaped, .idle, 0, 0, 0#8⟩
  | .txLead => ⟨true, .start, .lead, 0, 0, 0#8⟩
  | .txTrail => ⟨true, .start, .data, 0, 0, 0#8⟩
  | .txEsc => ⟨true, .start, .data, 0, 1, END⟩
  | .txData => ⟨true, .start, .data, 0, 1, 0#8⟩
  | .txCode => ⟨true, .start, .esc2, 0, 0, 0#8⟩
  | _ => ⟨true, .start, .idle, 0, 0, 0#8⟩

theorem selects_rowContext {i : Instr} (h : i.wf = true) : selects (rowContext i) i = true := by
  cases i with
  | rxStartData b | rxData b | rxEscBad b => exact h
  | _ => rfl

open Laws in
/-- An instruction's event decodes to it in every context that selects it; a command's row depends on no state (R80). -/
theorem decode_encode : (i : Instr) → RoundTrip.Statement i
  | .rxDiscard b => RoundTrip.rxDiscard b
  | .rxStartEnd => RoundTrip.rxStartEnd
  | .rxStartData b => RoundTrip.rxStartData b
  | .rxEnd => RoundTrip.rxEnd
  | .rxEsc => RoundTrip.rxEsc
  | .rxData b => RoundTrip.rxData b
  | .rxEscEnd => RoundTrip.rxEscEnd
  | .rxEscEsc => RoundTrip.rxEscEsc
  | .rxEscBad b => RoundTrip.rxEscBad b
  | .rxErr => RoundTrip.rxErr
  | .txLead => RoundTrip.txLead
  | .txTrail => RoundTrip.txTrail
  | .txEsc => RoundTrip.txEsc
  | .txData => RoundTrip.txData
  | .txCode => RoundTrip.txCode
  | .ifup | .ifdown | .ack _ | .txstart _ | .wtx _ _ | .rtx _ | .wrx _ _ | .rrx _ | .status => fun _ _ => rfl
  | .reserved0 | .reservedA | .reservedB | .reservedC | .reservedD | .reservedE | .reservedF => fun _ _ => rfl

/-! ## From an event to its instruction and back -/

/-- A byte's class is selected, and its row fixes or carries that byte (40_receive.md R100). -/
theorem decodeRx_sound {c : DecodeContext} {b : Byte} {i : Instr} (h : decodeRx c b = .ok i) :
    selects c i = true ∧ encode i = .rx b := by
  unfold decodeRx at h
  split at h
  · cases h
  next hr =>
  split at h
  · next hu => cases h; simpa [selects, encode, hu] using hr
  next hu =>
  have hup : c.up = true := by simpa using hu
  split at h
  · next hp => split_ifs at h <;> cases h <;> simp_all [selects, encode]
  · next hp => split_ifs at h <;> cases h <;> simp_all [selects, encode]
  · next hp => split_ifs at h <;> cases h <;> simp_all [selects, encode]
  all_goals cases h

theorem decodeRxErr_sound {c : DecodeContext} {i : Instr} (h : decodeRxErr c = .ok i) :
    selects c i = true ∧ encode i = .rxErr := by
  unfold decodeRxErr at h
  split at h
  · next hr => cases h; exact ⟨hr, rfl⟩
  · cases h

/-- An emission class is selected, and its event is EMIT (41_transmit.md R130). -/
theorem decodeEmit_sound {c : DecodeContext} {i : Instr} (h : decodeEmit c = .ok i) :
    selects c i = true ∧ encode i = .emit := by
  unfold decodeEmit at h
  split at h
  · cases h
  · next hp => cases h; simp [selects, encode, hp]
  · next hp => split_ifs at h <;> cases h <;> simp_all [selects, encode]
  · next hp => cases h; simp [selects, encode, hp]

/-- A command's row keeps the code and the row's operands, code by code (30_encoding.md R80, R81; log 14). -/
theorem encode_decodeCommand : ∀ w : CommandWord, encode (decodeCommand w) = .command w.operandsOnly := by
  rintro ⟨⟨⟨k, hk⟩⟩, n, i, v⟩
  interval_cases k <;> rfl

theorem selects_decodeCommand (c : DecodeContext) : ∀ w : CommandWord, selects c (decodeCommand w) = true := by
  rintro ⟨⟨⟨k, hk⟩⟩, n, i, v⟩
  interval_cases k <;> rfl

/-- Whatever decodes is selected, and encodes to the event again, less what is not part of it. -/
theorem decode_sound {c : DecodeContext} {e : Event} {i : Instr} (h : decode c e = .ok i) :
    selects c i = true ∧ encode i = e.operandsOnly := by
  cases e with
  | rx b => exact decodeRx_sound h
  | rxErr => exact decodeRxErr_sound h
  | emit => exact decodeEmit_sound h
  | command w => cases h; exact ⟨selects_decodeCommand c w, encode_decodeCommand w⟩

/-- Settles O30: every well-formed instruction has a context of its row, its event decodes to it wherever its row is
selected, and the class of an event is selected, hence well formed, and carries the event's operands. -/
theorem decodeEncodeRoundTrip : Obligations.DecodeEncodeRoundTrip := by
  refine ⟨fun i hi => ⟨⟨rowContext i, selects_rowContext hi⟩, decode_encode i⟩, fun c e i h => ?_⟩
  obtain ⟨hsel, henc⟩ := decode_sound h
  exact ⟨wf_of_selects hsel, hsel, henc⟩

/-- Settles O28: each code computes to its row with the row's operands, in any context. -/
theorem commandCodesSelectTheirRows : Obligations.CommandCodesSelectTheirRows := by
  intro c n i v
  exact ⟨rfl, rfl, rfl, rfl, rfl, rfl, rfl, rfl, rfl, rfl, rfl, rfl, rfl, rfl, rfl, rfl⟩

end Sys2Proof
end

section
/-! The printed class tables are the decoder's dispatch, the first matching row winning (30_encoding.md R76, R79). -/

namespace Sys2Proof

open Machine (rxPhase_ready_iff)

@[simp] theorem toOption_ok (i : Instr) : (Except.ok i : Except DecodeReject Instr).toOption = some i := rfl
@[simp] theorem toOption_error (r : DecodeReject) : (Except.error r : Except DecodeReject Instr).toOption = none := rfl

/-- A row whose mask is 0xFF takes its own byte only. -/
theorem and_fullMask (b : Byte) : b &&& 0xFF#8 = b := BitVec.and_allOnes

/-- The receive rows are the dispatch of 40_receive.md R100, in each of the two interface states and each phase. -/
theorem rxByRows_eq_decodeRx (c : DecodeContext) (b : Byte) : rxByRows c b = (decodeRx c b).toOption := by
  obtain ⟨up, p, e, k, n, x⟩ := c
  cases up with
  | false => cases p <;> simp [rxByRows, rxRows, RxRow.takes, decodeRx, RxPhase.ready]
  | true =>
    cases p with
    | start =>
      by_cases h : b = END <;>
        simp [rxByRows, rxRows, RxRow.takes, decodeRx, RxPhase.ready, and_fullMask, h]
    | body =>
      by_cases h : b = END
      · subst h; rfl
      by_cases h' : b = ESC
      · subst h'; rfl
      simp [rxByRows, rxRows, RxRow.takes, decodeRx, RxPhase.ready, and_fullMask, h, h']
    | escaped =>
      by_cases h : b = ESC_END
      · subst h; rfl
      by_cases h' : b = ESC_ESC
      · subst h'; rfl
      simp [rxByRows, rxRows, RxRow.takes, decodeRx, RxPhase.ready, and_fullMask, h, h']
    | handoff | reply | failed => rfl

/-- The phases that take bytes have a class for every byte (40_receive.md R100). -/
theorem decodeRx_isSome_iff (c : DecodeContext) (b : Byte) :
    (decodeRx c b).toOption.isSome = true ↔ c.rxPhase.ready = true := by
  obtain ⟨up, p, e, k, n, x⟩ := c
  cases up <;> cases p <;>
    simp [decodeRx, RxPhase.ready, apply_ite Except.toOption, apply_ite Option.isSome]

/-- A byte is to be escaped if the condition column of 30_encoding.md R79 lists it. -/
theorem needsEscape_eq_contains (b : Byte) : needsEscape b = [0xC0#8, 0xDB#8].contains b := by
  simp only [needsEscape, List.contains_cons, List.contains_nil, Bool.or_false]

/-- The emission rows are the dispatch of 41_transmit.md R130; in DATA the index is at, below or past the end. -/
theorem txByRows_eq_decodeEmit (c : DecodeContext) : txByRows c = (decodeEmit c).toOption := by
  obtain ⟨up, p, e, k, n, x⟩ := c
  cases e with
  | idle | lead | esc2 => rfl
  | data =>
    rcases Nat.lt_trichotomy k n with h | h | h
    · have hc : [0xC0#8, 0xDB#8].contains x = needsEscape x := (needsEscape_eq_contains x).symm
      cases hx : needsEscape x <;>
        simp only [txByRows, txRows, TxCondition.holds, decodeEmit, hc, hx] <;>
        simp [h, h.ne]
    · simp [txByRows, txRows, TxCondition.holds, decodeEmit, h]
    · simp [txByRows, txRows, TxCondition.holds, decodeEmit, h.ne', h.not_gt]

/-- Settles O29: both tables are the dispatch, the receive dispatch is defined in the phases that take bytes, and the
emission dispatch has no class in IDLE. -/
theorem classTablesAgreeWithDispatch : Obligations.ClassTablesAgreeWithDispatch := by
  intro c b
  refine ⟨(rxByRows_eq_decodeRx c b).symm, (txByRows_eq_decodeEmit c).symm, ?_, fun he => ?_⟩
  · rw [rxByRows_eq_decodeRx, decodeRx_isSome_iff, rxPhase_ready_iff]
  · simp [txByRows_eq_decodeEmit, decodeEmit, he]

end Sys2Proof
end

section
/-! The length of the wire form (30_encoding.md R71, R72, R74). -/

namespace Sys2Proof.Machine

/-- A byte goes out as one byte, an END or ESC as a pair. -/
theorem stuff_length (b : Byte) : (stuff b).length = 1 + if b == END || b == ESC then 1 else 0 := by
  by_cases h1 : b = END
  · subst h1; rfl
  by_cases h2 : b = ESC
  · subst h2; rfl
  simp [stuff_other h1 h2, h1, h2]

theorem flatMap_stuff_length (x : List Byte) :
    (x.flatMap stuff).length = x.length + x.countP fun b => b == END || b == ESC := by
  induction x with
  | nil => rfl
  | cons b x ih =>
    rw [List.flatMap_cons, List.length_append, ih, stuff_length, List.countP_cons, List.length_cons]
    omega

/-- The two ENDs around the pieces (30_encoding.md R71). -/
theorem wireEncode_length (x : List Byte) :
    (wireEncode x).length = x.length + 2 + x.countP fun b => b == END || b == ESC := by
  simp only [wireEncode, List.length_append, flatMap_stuff_length, List.length_singleton]
  omega

/-- Settles O47: the escapes are counted one by one, and there are at most as many as bytes. -/
theorem wireLength : Obligations.WireLength := by
  intro x
  have hlen := wireEncode_length x
  have hcount : x.countP (fun b => b == END || b == ESC) ≤ x.length := List.countP_le_length
  exact ⟨hlen, by omega, by omega, wireEncode_nil⟩

end Sys2Proof.Machine
end

section
/-! A valid trace, loaded as the agents' pending events, is a run of the machine (30_encoding.md R84; 00_scope.md R9). -/

namespace Sys2Proof.Machine

/-! ## What loading a trace adds -/

/-- The receive port's item of an event, if it is the receive port's. -/
def rxOfferOf : Event → Option RxOffer
  | .rx b => some (.byte b)
  | .rxErr => some .error
  | .emit | .command _ => none

/-- The command word of an event, if it is the host's. -/
def commandWordOf : Event → Option CommandWord
  | .command w => some w
  | .rx _ | .rxErr | .emit => none

/-- Loading appends each agent's events to what it has pending, and the order of the agents to the schedule. -/
theorem State.load_eq (s : State) (es : List Event) : s.load es =
    { s with
      rxPort := s.rxPort ++ es.filterMap rxOfferOf, txTakes := s.txTakes + es.count .emit
      hostPort := s.hostPort ++ es.filterMap commandWordOf, schedule := s.schedule ++ es.map Event.agent } := by
  unfold State.load
  induction es generalizing s with
  | nil => simp
  | cons e es ih =>
    rw [List.foldl_cons, ih]
    cases e <;> simp [State.enqueue, List.filterMap_cons, rxOfferOf, commandWordOf, Event.agent, Nat.add_right_comm,
      Nat.add_assoc]

@[simp] theorem State.load_bare (s : State) (es : List Event) : (s.load es).bare = s.bare := by
  rw [State.load_eq]; rfl

@[simp] theorem State.load_context (s : State) (es : List Event) : (s.load es).context = s.context := by
  rw [State.load_eq]; rfl

@[simp] theorem State.load_enabled (s : State) (es : List Event) (i : Instr) :
    (s.load es).enabled i = s.enabled i := by
  rw [← State.bare_enabled, State.load_bare, State.bare_enabled]

theorem State.load_advance (s u : State) (es : List Event) : (s.load es).advance u = (s.advance u).load es := by
  rw [State.load_eq, State.load_eq]; rfl

/-- No instruction reads or writes what is pending. -/
theorem effect_load (s : State) (es : List Event) (i : Instr) : effect (s.load es) i = (effect s i).load es := by
  rw [effect_eq_advance, effect_eq_advance s, State.load_bare, State.load_advance]

/-! ## One step of a loaded trace -/

/-- Nothing pending at any agent and no turn given. -/
def State.Quiet (s : State) : Prop := s.rxPort = [] ∧ s.txTakes = 0 ∧ s.hostPort = [] ∧ s.schedule = []

theorem State.Quiet.after_effect {s : State} (h : s.Quiet) (i : Instr) : (effect s i).Quiet := by
  simpa [State.Quiet] using h

theorem State.Quiet.load_schedule {s : State} (h : s.Quiet) (es : List Event) :
    (s.load es).schedule = es.map Event.agent := by
  obtain ⟨-, -, -, hl⟩ := h
  simp [State.load_eq, hl]

/-- The agent of a trace's first event offers that event. -/
theorem State.Quiet.load_offer {s : State} (h : s.Quiet) (e : Event) (es : List Event) :
    (s.load (e :: es)).offer e.agent = some e := by
  obtain ⟨hrx, htx, hh, -⟩ := h
  cases e <;> simp [State.load_eq, State.offer, Event.agent, rxOfferOf, commandWordOf, RxOffer.event, hrx, htx, hh]

/-- With the first event taken and its turn used up, the rest of the trace is what is loaded. -/
theorem State.Quiet.load_take {s : State} (h : s.Quiet) (e : Event) (es : List Event) :
    ({ s.load (e :: es) with schedule := es.map Event.agent } : State).take e.agent = s.load es := by
  obtain ⟨hrx, htx, hh, hl⟩ := h
  cases e <;> simp [State.load_eq, State.take, Event.agent, List.filterMap_cons, rxOfferOf, commandWordOf, hrx, htx, hh,
    hl]

/-- The first event of a loaded trace is run by one step. -/
theorem State.Quiet.step_load {s : State} (h : s.Quiet) {e : Event} {es : List Event} {i : Instr}
    (hd : decode s.context e = .ok i) (hi : s.enabled i = true) :
    step (s.load (e :: es)) = .next ((effect s i).load es) := by
  have hi' : (s.load (e :: es)).enabled i = true := by simpa using hi
  obtain ⟨hl, -, -⟩ := (State.enabled_iff _ _).1 hi'
  rw [step_of_live hl (h.load_schedule (e :: es)),
    turn_of_enabled (by simpa using h.load_offer e es) (by simpa using hd) (by simpa using hi),
    h.load_take, exec_of_enabled (by simpa using hi), effect_load]

/-- One step, then the rest of the run. -/
theorem run_succ_of_step {s t : State} (h : step s = .next t) (k : Nat) :
    Host.Core.run Sys2Proof.core (k + 1) s = Host.Core.run Sys2Proof.core k t := by
  have hc : Sys2Proof.core.step s = .next t := h
  simp [Host.Core.run, hc]

/-- A valid trace from a quiet state is a run of as many steps. -/
theorem State.Quiet.run_load {es : List Event} {s t : State} (h : s.Quiet) (ht : runTrace es s = some t) :
    Host.Core.run Sys2Proof.core es.length (s.load es) = .next t := by
  induction es generalizing s with
  | nil => cases ht; rfl
  | cons e es ih =>
    obtain ⟨i, hd, hi, hrest⟩ := runTrace_cons_cases ht
    rw [List.length_cons, run_succ_of_step (h.step_load hd hi)]
    exact ih (h.after_effect i) hrest

/-- Settles O46: each step runs the trace's next event, and leaves the rest of the trace loaded. -/
theorem validTraceIsARun : Obligations.ValidTraceIsARun :=
  fun _ _ _ hrx htx hh hl => State.Quiet.run_load ⟨hrx, htx, hh, hl⟩

end Sys2Proof.Machine
end

section
/-! The encoder drained: from any state of an encode, as many EMITs as bytes remain emit exactly those bytes
(41_transmit.md R137). -/

namespace Sys2Proof.Machine

/-- The invariants of 10_state.md R35 that the emission order rests on: items 5 to 7, without the bound to CAP and the
value of `enc_code`. -/
structure State.EncInv (s : State) : Prop where
  /-- R35 item 5 -/
  encIdx_le : s.encIdx ≤ s.encLen
  /-- R35 item 6 -/
  esc2_lt : s.encPhase = .esc2 → s.encIdx < s.encLen
  /-- R35 item 7 -/
  lead_first : s.encPhase = .lead → s.encIdx = 0

theorem State.Inv.encInv {s : State} (h : s.Inv) : s.EncInv :=
  ⟨h.encIdx_le, fun he => (h.esc2_code he).2, h.lead_first⟩

/-- A byte to be escaped goes out as ESC and its code (30_encoding.md R72). -/
theorem stuff_of_needsEscape {b : Byte} (h : needsEscape b = true) :
    stuff b = [ESC, if b = END then ESC_END else ESC_ESC] := by
  rcases (show b = END ∨ b = ESC by simpa [needsEscape] using h) with rfl | rfl <;> rfl

/-- Any other byte goes out as itself. -/
theorem stuff_of_not_needsEscape {b : Byte} (h : needsEscape b = false) : stuff b = [b] := by
  obtain ⟨h1, h2⟩ : b ≠ END ∧ b ≠ ESC := by simpa [needsEscape] using h
  exact stuff_other h1 h2

/-! ## What remains, phase by phase -/

theorem State.remaining_idle {s : State} (h : s.encPhase = .idle) : s.remaining = [] := by
  simp [State.remaining, h]

theorem State.remaining_lead {s : State} (h : s.encPhase = .lead) : s.remaining = wireEncode s.sourceFrame := by
  simp [State.remaining, h]

theorem State.remaining_data {s : State} (h : s.encPhase = .data) :
    s.remaining = (s.sourceFrame.drop s.encIdx).flatMap stuff ++ [END] := by
  simp [State.remaining, h]

theorem State.remaining_esc2 {s : State} (h : s.encPhase = .esc2) :
    s.remaining = s.encCode :: ((s.sourceFrame.drop (s.encIdx + 1)).flatMap stuff ++ [END]) := by
  simp [State.remaining, h]

/-- Below the end, DATA has the source byte's pieces to emit and then what follows it. -/
theorem State.remaining_source {s : State} (h : s.encPhase = .data) (hlt : s.encIdx < s.encLen) :
    s.remaining = stuff (s.src s.encIdx) ++ ((s.sourceFrame.drop (s.encIdx + 1)).flatMap stuff ++ [END]) := by
  rw [State.remaining_data h, s.sourceFrame_drop hlt, List.flatMap_cons, List.append_assoc]

/-- Outside IDLE at least the trailing END remains. -/
theorem State.remaining_eq_nil_iff {s : State} : s.remaining = [] ↔ s.encPhase = .idle := by
  cases h : s.encPhase <;> simp [State.remaining, wireEncode, h]

/-! ## One EMIT -/

/-- While the encoder is on a frame, not past its end, EMIT has a class (41_transmit.md R130). -/
theorem decodeEmit_defined {c : DecodeContext} (hp : c.encPhase ≠ .idle) (hle : c.encIdx ≤ c.encLen) :
    ∃ i, decodeEmit c = .ok i := by
  unfold decodeEmit
  split
  · contradiction
  · exact ⟨_, rfl⟩
  · rcases hle.eq_or_lt with hend | hlt
    · exact ⟨_, if_pos hend⟩
    · rw [if_neg hlt.ne, if_pos hlt]
      split <;> exact ⟨_, rfl⟩
  · exact ⟨_, rfl⟩

/-- While the encoder is on a frame, EMIT has a class, which is enabled (41_transmit.md R130). -/
theorem State.emission_enabled {s : State} (hl : s.live = true) (h : s.EncInv) (hp : s.encPhase ≠ .idle) :
    ∃ i, decode s.context .emit = .ok i ∧ s.enabled i = true ∧ encode i = .emit := by
  obtain ⟨i, hi⟩ := decodeEmit_defined (c := s.context) hp h.encIdx_le
  obtain ⟨hsel, henc⟩ := decodeEmit_sound hi
  refine ⟨i, hi, (s.enabled_iff i).2 ⟨hl, hsel, ?_⟩, henc⟩
  cases i <;> cases henc <;> rfl

/-- The trailing END is emitted in DATA at the frame's end (30_encoding.md R79). -/
theorem end_of_selects {c : DecodeContext} (h : selects c .txTrail = true) :
    c.encPhase = .data ∧ c.encIdx = c.encLen := by
  simpa [selects] using h

/-- An enabled emission emits the byte that remains next, and the encoder goes on with the rest (41_transmit.md R132 to
R136). -/
theorem State.EncInv.emission {s : State} {i : Instr} (h : s.EncInv) (hi : selects s.context i = true)
    (he : encode i = .emit) :
    ∃ b, s.remaining = b :: (effect s i).remaining ∧ (effect s i).outputs = s.outputs ++ [.emitted b] ∧
      (effect s i).EncInv ∧ (effect s i).live = s.live := by
  cases i with
  | txLead =>
    have hp : s.encPhase = .lead := by simpa [selects] using hi
    refine ⟨END, ?_, rfl, ⟨h.encIdx_le, by simp [effect], by simp [effect]⟩, rfl⟩
    rw [State.remaining_lead hp, State.remaining_data rfl]
    show wireEncode s.sourceFrame = END :: ((s.sourceFrame.drop s.encIdx).flatMap stuff ++ [END])
    rw [h.lead_first hp]
    rfl
  | txTrail =>
    obtain ⟨hp, hend⟩ : s.encPhase = .data ∧ s.encIdx = s.encLen := end_of_selects hi
    refine ⟨END, ?_, rfl, ⟨h.encIdx_le, by simp [effect], by simp [effect]⟩, rfl⟩
    rw [State.remaining_data hp, State.remaining_idle rfl, hend, List.drop_of_length_le (by simp)]
    rfl
  | txEsc =>
    obtain ⟨hp, hlt⟩ : s.encPhase = .data ∧ s.encIdx < s.encLen := source_of_selects hi (.inl rfl)
    have hb : needsEscape (s.src s.encIdx) = true := (Bool.and_eq_true_iff.1 hi).2
    refine ⟨ESC, ?_, rfl, ⟨h.encIdx_le, fun _ => hlt, by simp [effect]⟩, rfl⟩
    rw [State.remaining_source hp hlt, stuff_of_needsEscape hb, State.remaining_esc2 rfl]
    rfl
  | txData =>
    obtain ⟨hp, hlt⟩ : s.encPhase = .data ∧ s.encIdx < s.encLen := source_of_selects hi (.inr rfl)
    have hb : needsEscape (s.src s.encIdx) = false := by simpa using (Bool.and_eq_true_iff.1 hi).2
    refine ⟨s.src s.encIdx, ?_, rfl, ⟨hlt, by simp [effect, hp], by simp [effect, hp]⟩, rfl⟩
    rw [State.remaining_source hp hlt, stuff_of_not_needsEscape hb, State.remaining_data (s := effect s .txData) hp]
    rfl
  | txCode =>
    have hp : s.encPhase = .esc2 := by simpa [selects] using hi
    refine ⟨s.encCode, ?_, rfl, ⟨h.esc2_lt hp, by simp [effect], by simp [effect]⟩, rfl⟩
    rw [State.remaining_esc2 hp, State.remaining_data rfl]
    rfl
  | _ => cases he

/-! ## EMIT until the encoder is idle -/

/-- DRAIN ends IDLE with exactly what remained emitted, in order (41_transmit.md R137). -/
theorem runTrace_drain {s : State} (hl : s.live = true) (h : s.EncInv) :
    ∃ t, runTrace (drain s) s = some t ∧ t.encPhase = .idle ∧
      t.outputs = s.outputs ++ s.remaining.map Output.emitted := by
  unfold drain
  generalize hr : s.remaining = r
  induction r generalizing s with
  | nil => exact ⟨s, rfl, State.remaining_eq_nil_iff.1 hr, by simp⟩
  | cons b r ih =>
    have hp : s.encPhase ≠ .idle := fun hp => by simp [State.remaining_idle hp] at hr
    obtain ⟨i, hd, hi, henc⟩ := State.emission_enabled hl h hp
    obtain ⟨b', hrem, hout, hinv, hlive⟩ := h.emission ((s.enabled_iff i).1 hi).2.1 henc
    obtain ⟨rfl, rfl⟩ : b = b' ∧ r = (effect s i).remaining := by simpa [hr] using hrem
    obtain ⟨t, ht, hidle, houts⟩ := ih (hlive ▸ hl) hinv rfl
    refine ⟨t, ?_, hidle, by simp [houts, hout]⟩
    rw [← ht]
    exact runTrace_cons hd hi

end Sys2Proof.Machine
end

section
/-! SEND: a frame written into `tx_buf`, started and drained (30_encoding.md R85; 60_exceptions.md R200). -/

namespace Sys2Proof.Machine

/-! ## Bytes written one after another, each answered OK -/

/-- The state after writing `bs` to a space from index `i` on, every write answered OK. -/
def State.writeBytes (sp : Space) : State → Nat → List Byte → State
  | s, _, [] => s
  | s, i, b :: bs => ((s.writeByte sp i b).respond .ok).writeBytes sp (i + 1) bs

/-- What neither a write nor a response changes, the writes do not change. -/
theorem State.writeBytes_keeps {α : Type} (f : State → α) {sp : Space}
    (hw : ∀ s a v, f (s.writeByte sp a v) = f s) (hr : ∀ s r, f (s.respond r) = f s) (s : State) (i : Nat)
    (bs : List Byte) : f (s.writeBytes sp i bs) = f s := by
  induction bs generalizing s i with
  | nil => rfl
  | cons b bs ih => rw [State.writeBytes, ih, hr, hw]

section
variable (s : State) (sp : Space) (i : Nat) (bs : List Byte)

@[simp] theorem State.writeBytes_live : (s.writeBytes sp i bs).live = s.live :=
  State.writeBytes_keeps State.live (by simp) (by simp) s i bs
@[simp] theorem State.writeBytes_up : (s.writeBytes sp i bs).up = s.up :=
  State.writeBytes_keeps (fun s => s.up) (by simp) (by simp) s i bs
@[simp] theorem State.writeBytes_encPhase : (s.writeBytes sp i bs).encPhase = s.encPhase :=
  State.writeBytes_keeps (fun s => s.encPhase) (by simp) (by simp) s i bs
@[simp] theorem State.writeBytes_cap : (s.writeBytes sp i bs).cap = s.cap :=
  State.writeBytes_keeps State.cap (by simp) (by simp) s i bs

@[simp] theorem State.writeBytes_outputs :
    (s.writeBytes sp i bs).outputs = s.outputs ++ List.replicate bs.length (.responded .ok) := by
  induction bs generalizing s i with
  | nil => simp [State.writeBytes]
  | cons b bs ih => simp [State.writeBytes, ih, List.replicate_succ]

end

/-- The writes leave every byte before them alone. -/
theorem State.readByte_writeBytes_below {s : State} {sp : Space} {i a : Nat} {bs : List Byte} (ha : a < i) :
    (s.writeBytes sp i bs).readByte sp a = s.readByte sp a := by
  induction bs generalizing s i with
  | nil => rfl
  | cons b bs ih =>
    rw [State.writeBytes, ih (Nat.lt_succ_of_lt ha), State.readByte_respond,
      State.readByte_writeByte_other (.inr ha.ne)]

/-- Each byte written is what is read back. -/
theorem State.readByte_writeBytes {s : State} {sp : Space} {i k : Nat} {bs : List Byte} (h : (s.buffer sp).wf)
    (hk : k < bs.length) : (s.writeBytes sp i bs).readByte sp (i + k) = bs[k] := by
  induction bs generalizing s i k with
  | nil => cases hk
  | cons b bs ih =>
    rw [State.writeBytes]
    cases k with
    | zero =>
      refine (State.readByte_writeBytes_below (Nat.lt_succ_self i)).trans ?_
      exact State.readByte_writeByte_same h
    | succ k =>
      have hw : (((s.writeByte sp i b).respond .ok).buffer sp).wf := by cases sp <;> exact Memory.write_wf h
      have hrest := ih (i := i + 1) hw (Nat.lt_of_succ_lt_succ hk)
      rwa [Nat.add_right_comm] at hrest

/-- A frame written from index 0 is what the buffer starts with. -/
theorem State.bytes_writeBytes {s : State} {sp : Space} {x : List Byte} (h : (s.buffer sp).wf) :
    (s.writeBytes sp 0 x).bytes sp x.length = x := by
  refine List.ext_getElem (by simp) fun k _ hk => ?_
  have hread := State.readByte_writeBytes (i := 0) h hk
  simpa [State.bytes] using hread

/-! ## The commands of SEND -/

/-- WTXS within the buffer, while the encoder does not read it. -/
theorem runTrace_wtxs {s : State} {i : Nat} {bs : List Byte} (hl : s.live = true) (hi : i + bs.length ≤ s.cap)
    (hp : s.encPhase = .idle) : runTrace (wtxs i bs) s = some (s.writeBytes .txbuf i bs) := by
  induction bs generalizing s i with
  | nil => rfl
  | cons b bs ih =>
    rw [List.length_cons] at hi
    rw [wtxs, runTrace_wtx hl (by omega) (.inl hp), State.writeBytes]
    exact ih (by simpa using hl) (by simp; omega) (by simpa using hp)

/-- TXSTART while up with the encoder idle and a length that fits (42_host.md R155). -/
theorem runTrace_txstart {s : State} {n : Nat} {es : List Event} (hl : s.live = true) (hu : s.up = true)
    (hp : s.encPhase = .idle) (hn : n ≤ s.cap) :
    runTrace (evTxstart n :: es) s = runTrace es ((s.startEncode .txbuf n).respond .ok) := by
  have he : s.enabled (.txstart n) = true :=
    (s.enabled_iff _).2 ⟨hl, rfl, by simp [State.busyHold, State.txBusy, hp]⟩
  rw [runTrace_cons rfl he]
  simp [effect, State.lengthOk, hn, hu]

/-- The state after the writes and the start of `SEND x`. -/
def State.sendStarted (s : State) (x : List Byte) : State :=
  ((s.writeBytes .txbuf 0 x).startEncode .txbuf x.length).respond .ok

/-- The writes and the start of SEND are valid (30_encoding.md R85). -/
theorem runTrace_sendStarted {x : List Byte} {s : State} (hl : s.live = true) (hu : s.up = true)
    (hp : s.encPhase = .idle) (hlen : x.length ≤ s.cap) :
    runTrace (wtxs 0 x ++ [evTxstart x.length]) s = some (s.sendStarted x) := by
  rw [runTrace_append, runTrace_wtxs hl (by simpa using hlen) hp]
  exact runTrace_txstart (by simpa using hl) (by simpa using hu) (by simpa using hp) (by simpa using hlen)

/-- SEND, its writes and its start being valid, is the DRAIN that follows them. -/
theorem runTrace_send {x : List Byte} {s t : State} (h : runTrace (wtxs 0 x ++ [evTxstart x.length]) s = some t) :
    runTrace (send x s) s = runTrace (drain t) t := by
  simp only [send, h]
  rw [runTrace_append, h]
  rfl

@[simp] theorem State.sendStarted_live (s : State) (x : List Byte) : (s.sendStarted x).live = s.live :=
  State.writeBytes_live s .txbuf 0 x

theorem State.sendStarted_encInv (s : State) (x : List Byte) : (s.sendStarted x).EncInv :=
  ⟨Nat.zero_le _, by simp [State.sendStarted], fun _ => rfl⟩

/-- The whole wire form of the frame written remains to be emitted. -/
theorem State.sendStarted_remaining {s : State} (h : s.txBuf.wf) (x : List Byte) :
    (s.sendStarted x).remaining = wireEncode x := by
  have hframe : (s.sendStarted x).sourceFrame = x := State.bytes_writeBytes (sp := .txbuf) h
  rw [State.remaining_lead rfl, hframe]

theorem State.sendStarted_outputs (s : State) (x : List Byte) :
    (s.sendStarted x).outputs = s.outputs ++ List.replicate (x.length + 1) (.responded .ok) := by
  simp [State.sendStarted, List.replicate_succ']

/-- Settles O53: the writes and the start are valid and each is answered OK, the encoder then has the wire form of `x`
to emit, and DRAIN emits it. -/
theorem sendTransmitsTheFrame : Obligations.SendTransmitsTheFrame := by
  intro x s hl hu hp hwf hlen
  obtain ⟨t, hrun, hidle, hout⟩ := runTrace_drain ((s.sendStarted_live x).trans hl) (s.sendStarted_encInv x)
  rw [State.sendStarted_outputs, State.sendStarted_remaining hwf] at hout
  exact ⟨t, (runTrace_send (runTrace_sendStarted hl hu hp hlen)).trans hrun, hidle, hout⟩

end Sys2Proof.Machine
end

section
/-! The receive classes one by one (40_receive.md R101 to R110): STORE below and at the capacity, and what each class
makes of the state where its row is selected. -/

namespace Sys2Proof.Machine

/-! ## STORE -/

/-- Settles O2: below the capacity STORE is one write and one count, at the capacity it is nothing. -/
theorem storeWritesBelowCapacityOnly : Obligations.StoreWritesBelowCapacityOnly := by
  intro s v hwf
  refine ⟨fun hc => ⟨State.store_below v hc, fun a => ?_⟩, State.store_full v⟩
  simpa only [hc, true_and] using State.readByte_store hwf a

/-! ## Where a receive class is enabled -/

/-- Only host commands have a busy hold (60_exceptions.md R183). -/
theorem State.busyHold_of_port {s : State} {i : Instr} (hi : (encode i).agent ≠ .host) : s.busyHold i = false := by
  cases i with
  | ack | txstart => exact absurd rfl hi
  | _ => rfl

/-- A port's class is enabled where its row is selected and no run mark is set. -/
theorem State.enabled_of_port {s : State} {i : Instr} (hl : s.live = true) (hsel : selects s.context i = true)
    (hi : (encode i).agent ≠ .host) : s.enabled i = true :=
  (s.enabled_iff i).2 ⟨hl, hsel, State.busyHold_of_port hi⟩

/-- A receive class whose row is selected takes effect. -/
theorem exec_of_receive {s : State} {i : Instr} (hl : s.live = true) (hsel : selects s.context i = true)
    (hi : (encode i).agent = .receivePort) : exec i s = .next (effect s i) :=
  exec_of_enabled (State.enabled_of_port hl hsel (by simp [hi]))

/-! ## The classes -/

/-- Settles O3: the row of RX.DISCARD asks for the interface down and a phase that takes bytes. -/
theorem rxDiscardLosesTheByteOnly : Obligations.RxDiscardLosesTheByteOnly := by
  intro s b hl hu hp
  exact exec_of_receive hl (by simp [selects, hu, rxPhase_ready_iff.2 hp]) rfl

/-- Settles O4: the row of RX.START.END asks for START while up. -/
theorem rxStartEndOpensAnEmptyFrame : Obligations.RxStartEndOpensAnEmptyFrame := by
  intro s hl hu hp
  exact exec_of_receive hl (by simp [selects, hu, hp]) rfl

/-- Settles O5: the row of RX.START.DATA takes every byte but END, and CAP is at least 2. -/
theorem rxStartDataStoresTheFirstByte : Obligations.RxStartDataStoresTheFirstByte := by
  intro s b hl hu hp hb
  exact ⟨exec_of_receive hl (by simp [selects, hu, hp, hb]) rfl, Nat.lt_of_lt_of_le Nat.two_pos s.two_le_cap⟩

/-- Settles O6: RX.END looks at `rx_len` alone. -/
theorem rxEndCompletesOrIsIgnored : Obligations.RxEndCompletesOrIsIgnored := by
  intro s hl hu hp
  have hx : exec .rxEnd s = .next (effect s .rxEnd) := exec_of_receive hl (by simp [selects, hu, hp]) rfl
  refine ⟨fun hlen => ?_, fun hlen => ?_⟩
  · rw [hx, effect, if_pos hlen]; rfl
  · rw [hx, effect, if_neg (by simp [hlen])]; rfl

/-- Settles O7: the row of RX.ESC asks for BODY while up, whatever `rx_len` is. -/
theorem rxEscOpensAnEscape : Obligations.RxEscOpensAnEscape := by
  intro s hl hu hp
  exact exec_of_receive hl (by simp [selects, hu, hp]) rfl

/-- Settles O8: RX.DATA is STORE and its output. -/
theorem rxDataStoresItsByte : Obligations.RxDataStoresItsByte := by
  intro s b hl hu hp hb hb'
  have hx : exec (.rxData b) s = .next ((s.store b).result .assembling false) :=
    exec_of_receive hl (by simp [selects, hu, hp, hb, hb']) rfl
  refine ⟨fun hc => ?_, fun hc => ?_⟩
  · rw [hx, State.store_below b hc]; rfl
  · rw [hx, State.store_full b hc]; rfl

/-- STORE and the return to BODY, the body of the classes of an escape (40_receive.md R108 to R110). -/
theorem store_toBody_result (s : State) (v : Byte) (f : Bool) :
    (s.rxLen < s.cap → ({ s.store v with rxPhase := .body } : State).result .assembling f =
      { s with rxBuf := s.rxBuf.write s.rxLen v, rxLen := s.rxLen + 1, rxPhase := .body
               outputs := s.outputs ++ [.received .assembling f] }) ∧
    (s.cap ≤ s.rxLen → ({ s.store v with rxPhase := .body } : State).result .assembling f =
      { s with rxPhase := .body, outputs := s.outputs ++ [.received .assembling f] }) := by
  refine ⟨fun hc => ?_, fun hc => ?_⟩
  · rw [State.store_below v hc]; rfl
  · rw [State.store_full v hc]; rfl

/-- Settles O9: each class of an escape pair stores its byte and returns to BODY. -/
theorem escapePairStoresEndOrEsc : Obligations.EscapePairStoresEndOrEsc := by
  intro s hl hu hp
  have hend : exec .rxEscEnd s = _ := exec_of_receive hl (by simp [selects, hu, hp]) rfl
  have hesc : exec .rxEscEsc s = _ := exec_of_receive hl (by simp [selects, hu, hp]) rfl
  obtain ⟨hendBelow, hendFull⟩ := store_toBody_result s END false
  obtain ⟨hescBelow, hescFull⟩ := store_toBody_result s ESC false
  rw [hend, hesc]
  exact ⟨fun hc => ⟨congrArg _ (hendBelow hc), congrArg _ (hescBelow hc)⟩,
    fun hc => ⟨congrArg _ (hendFull hc), congrArg _ (hescFull hc)⟩⟩

/-- Settles O10: RX.ESCBAD differs from an escape pair in its byte and in `viol(1)`. -/
theorem rxEscBadStoresVerbatim : Obligations.RxEscBadStoresVerbatim := by
  intro s b hl hu hp hb hb'
  have hx : exec (.rxEscBad b) s = _ := exec_of_receive hl (by simp [selects, hu, hp, hb, hb']) rfl
  obtain ⟨hbelow, hfull⟩ := store_toBody_result s b true
  rw [hx]
  exact ⟨fun hc => congrArg _ (hbelow hc), fun hc => congrArg _ (hfull hc)⟩

end Sys2Proof.Machine
end

section
/-! The frame of memory: an instruction changes no byte but the one at its store address (20_memory.md R59; 40_receive.md
R101, R104; 42_host.md R156, R158). -/

namespace Sys2Proof.Machine

/-! ## Every other byte -/

/-- STORE leaves every byte alone but the one at its index, in either space. -/
theorem State.readByte_store_other {s : State} {sp : Space} {a : Nat} {v : Byte}
    (h : s.storeIndex.map (fun k => (Space.rxbuf, k)) ≠ some (sp, a)) :
    (s.store v).readByte sp a = s.readByte sp a := by
  rcases Nat.lt_or_ge s.rxLen s.cap with hc | hc
  · have hne : sp ≠ .rxbuf ∨ a ≠ s.rxLen := by
      by_contra hcon
      obtain ⟨rfl, rfl⟩ : sp = .rxbuf ∧ a = s.rxLen := by simpa only [not_or, not_not] using hcon
      exact h (by simp [State.storeIndex, hc])
    rw [State.store_below v hc]
    exact State.readByte_writeByte_other hne
  · rw [State.store_full v hc]

/-- A write at another address than this one. -/
theorem State.readByte_writeByte_of_ne {s : State} {sp sp' : Space} {a a' : Nat} {v : Byte}
    (h : some (sp, a) ≠ some (sp', a')) : (s.writeByte sp a v).readByte sp' a' = s.readByte sp' a' :=
  State.readByte_writeByte_other (not_and_or.1 fun ⟨hsp, ha⟩ => h (by rw [hsp, ha]))

/-- An instruction with no store address, or another one, leaves a byte as it reads. -/
theorem readByte_effect_other {s : State} {i : Instr} {sp : Space} {a : Nat}
    (h : s.storeAddress i ≠ some (sp, a)) : (effect s i).readByte sp a = s.readByte sp a := by
  cases i with
  | rxStartData b => exact State.readByte_writeByte_of_ne h
  | rxData b | rxEscEnd | rxEscEsc | rxEscBad b => exact State.readByte_store_other h
  | wtx k v | wrx k v =>
    have hw (sp' : Space) (hne : some (sp', k) ≠ some (sp, a)) :
        ((s.writeByte sp' k v).respond .ok).readByte sp a = s.readByte sp a := by
      rw [State.readByte_respond, State.readByte_writeByte_of_ne hne]
    simp only [effect]
    split_ifs
    · rfl
    · rfl
    · exact hw _ h
  | _ => cases sp <;> simp [effect, apply_ite State.toBlock, apply_ite Block.rxBuf, apply_ite Block.txBuf]

/-! ## The stored byte -/

/-- STORE's own byte, where there is one. -/
theorem State.readByte_store_same {s : State} {sp : Space} {a : Nat} {v : Byte} (hwf : s.rxBuf.wf)
    (h : s.storeIndex.map (fun k => (Space.rxbuf, k)) = some (sp, a)) : (s.store v).readByte sp a = v := by
  obtain ⟨k, hk, hsp⟩ := Option.map_eq_some_iff.1 h
  cases hsp
  obtain ⟨hc, rfl⟩ : s.rxLen < s.cap ∧ s.rxLen = a := by simpa [State.storeIndex] using hk
  rw [State.readByte_store hwf, if_pos ⟨hc, rfl⟩]

/-- The value a form with a store address stores there. -/
def storeValue : Instr → Option Byte
  | .rxStartData b | .rxData b | .rxEscBad b => some b
  | .rxEscEnd => some END
  | .rxEscEsc => some ESC
  | .wtx _ v | .wrx _ v => some v
  | _ => none

/-- Where an instruction with a store address raises no fault, the byte there reads as its value. -/
theorem readByte_effect_same {s : State} {i : Instr} {sp : Space} {a : Nat} {v : Byte} (hrx : s.rxBuf.wf)
    (htx : s.txBuf.wf) (hf : (effect s i).fault = none) (h : s.storeAddress i = some (sp, a))
    (hv : storeValue i = some v) : (effect s i).readByte sp a = v := by
  cases i with
  | rxStartData b =>
    cases h; cases hv
    exact State.readByte_writeByte_same (sp := .rxbuf) hrx
  | rxData b | rxEscEnd | rxEscEsc | rxEscBad b =>
    cases hv
    exact State.readByte_store_same hrx h
  | wtx k v | wrx k v =>
    cases h; cases hv
    simp only [effect] at hf ⊢
    split_ifs at hf ⊢
    · cases hf
    · cases hf
    · rw [State.readByte_respond]
      exact State.readByte_writeByte_same (by assumption)
  | _ => cases hv

/-- Settles O43: a held instruction changes nothing, and one that takes effect stores its value at its address only. -/
theorem onlyTheStoredByteChanges : Obligations.OnlyTheStoredByteChanges := by
  intro i s t hx
  obtain ⟨-, rfl⟩ | ⟨he, rfl⟩ := exec_cases hx
  · refine ⟨fun sp a => readByte_effect_other, fun hrx htx _ hf sp a ha => ⟨fun v hi => ?_, ?_, ?_⟩⟩
    · have hv : storeValue i = some v := by rcases hi with rfl | rfl | rfl | rfl | rfl <;> rfl
      exact readByte_effect_same hrx htx hf ha hv
    · rintro rfl
      exact readByte_effect_same hrx htx hf ha rfl
    · rintro rfl
      exact readByte_effect_same hrx htx hf ha rfl
  · exact ⟨fun _ _ _ => rfl, fun _ _ hen => absurd hen (by simp [he])⟩

end Sys2Proof.Machine
end

section
/-! When a receive event is enabled, the class it runs as, and its outputs (40_receive.md R100, R111). -/

namespace Sys2Proof.Machine

/-! ## Receive events -/

/-- The class of a received byte in a phase that takes bytes (40_receive.md R100). -/
theorem decode_rx {s : State} (b : Byte) (h : s.rxPhase = .start ∨ s.rxPhase = .body ∨ s.rxPhase = .escaped) :
    decode s.context (.rx b) = .ok
      (if s.up = false then .rxDiscard b
       else if s.rxPhase = .start then (if b = END then .rxStartEnd else .rxStartData b)
       else if s.rxPhase = .body then (if b = END then .rxEnd else if b = ESC then .rxEsc else .rxData b)
       else (if b = ESC_END then .rxEscEnd else if b = ESC_ESC then .rxEscEsc else .rxEscBad b)) := by
  rcases h with hp | hp | hp <;> cases hu : s.up <;>
    simp [decode, decodeRx, RxPhase.ready, hp, hu, apply_ite Except.ok]

/-- A receive-port event is enabled exactly in the phases that take bytes, with no run mark set (40_receive.md R100,
R111). -/
theorem State.accepts_receive_iff {s : State} {e : Event} (he : e.agent = .receivePort) : s.accepts e = true ↔
    s.live = true ∧ (s.rxPhase = .start ∨ s.rxPhase = .body ∨ s.rxPhase = .escaped) := by
  rw [State.accepts_iff]
  refine ⟨fun ⟨i, hd, hi⟩ => ?_, fun ⟨hl, hp⟩ => ?_⟩
  · obtain ⟨hl, hsel, -⟩ := (s.enabled_iff i).1 hi
    have henc : encode i = e := by
      rw [(decode_sound hd).2]
      cases e <;> cases he <;> rfl
    exact ⟨hl, rxPhase_ready_iff.1 (ready_of_selects hsel (henc ▸ he))⟩
  · have hd : ∃ i, decode s.context e = .ok i := by
      cases e with
      | rx b => exact ⟨_, decode_rx b hp⟩
      | rxErr => exact ⟨_, if_pos (rxPhase_ready_iff.2 hp)⟩
      | emit | command => cases he
    obtain ⟨i, hd⟩ := hd
    obtain ⟨hsel, henc⟩ := decode_sound hd
    refine ⟨i, hd, State.enabled_of_port hl hsel ?_⟩
    rw [henc]
    cases e <;> cases he <;> simp [Event.operandsOnly, Event.agent]

/-- A phase that takes bytes presents no frame (10_state.md R31, R32). -/
theorem ne_handoff_of_ready {p : RxPhase} (h : p.ready = true) : p ≠ .handoff := by
  rintro rfl; cases h

/-- A selected class of a received byte outputs one result, `viol(1)` for RX.ESCBAD alone and COMPLETE with the handoff
alone, and sets no run mark (40_receive.md R100). -/
theorem receive_outputs {s : State} {i : Instr} {b : Byte} (hsel : selects s.context i = true)
    (henc : encode i = .rx b) :
    ∃ (c : RxResult) (f : Bool), (effect s i).outputs = s.outputs ++ [.received c f] ∧
      (effect s i).fault = s.fault ∧ (effect s i).refused = s.refused ∧ (f = true ↔ i = .rxEscBad b) ∧
      (c = .complete ↔ (effect s i).rxPhase = .handoff) := by
  have hready : s.rxPhase ≠ .handoff := ne_handoff_of_ready (ready_of_selects hsel (by rw [henc]; rfl))
  cases i with
  | rxDiscard b' => exact ⟨.discarded, false, rfl, rfl, rfl, by simp, by simp [effect, hready]⟩
  | rxEnd =>
    by_cases hlen : 0 < s.rxLen
    · exact ⟨.complete, false, by simp [effect, hlen]⟩
    · exact ⟨.discarded, false, by simp [effect, hlen, hready]⟩
  | rxEscBad b' =>
    cases henc
    exact ⟨.assembling, true, by simp [effect]⟩
  | rxStartEnd | rxStartData b' | rxEsc | rxEscEnd | rxEscEsc => exact ⟨.assembling, false, by simp [effect]⟩
  | rxData b' => exact ⟨.assembling, false, by simp [effect, hready]⟩
  | _ => cases henc

/-- Settles O1: the dispatch is the decoder's, and its class, selected and with no busy hold, gives its outputs. -/
theorem receiveStepDispatch : Obligations.ReceiveStepDispatch := by
  intro s b
  have hiff := s.accepts_receive_iff (e := .rx b) rfl
  refine ⟨hiff, fun ha => decode_rx b (hiff.1 ha).2, fun ha => ?_, rfl, rfl, rfl⟩
  obtain ⟨i, hd, hi⟩ := (s.accepts_iff _).1 ha
  obtain ⟨hsel, henc⟩ := decode_sound hd
  obtain ⟨c, f, hout, hfault, hrefused, hviol, hcomplete⟩ := receive_outputs hsel henc
  obtain ⟨hf, hr⟩ := s.live_iff.1 (hiff.1 ha).1
  refine ⟨effect s i, c, f, deliver_of_enabled hd hi, hout, hfault.trans hf, hrefused.trans hr, ?_, hcomplete⟩
  rw [hviol, hd, Except.ok.injEq]

/-! ## RXERR -/

/-- Of the other agents' instructions ACK alone looks at `rx_phase`, and only whether it is HANDOFF. -/
theorem State.enabled_withRxPhase {s : State} {i : Instr} {p : RxPhase} (hs : s.rxPhase ≠ .handoff)
    (hp : p ≠ .handoff) (hi : (encode i).agent ≠ .receivePort) :
    ({ s with rxPhase := p } : State).enabled i = s.enabled i := by
  cases i with
  | ack n =>
    have hv : s.frameValid = false := by simp [State.frameValid, hs]
    have hv' : ({ s with rxPhase := p } : State).frameValid = false := by simp [State.frameValid, hp]
    simp only [State.enabled, State.busyHold, hv, hv', Bool.and_false, Bool.false_and]
    rfl
  | rxDiscard | rxStartEnd | rxStartData | rxEnd | rxEsc | rxData | rxEscEnd | rxEscEsc | rxEscBad | rxErr =>
    exact absurd rfl hi
  | _ => rfl

/-- Between two receive phases that present no frame, what the other agents may do is the same. -/
theorem State.accepts_withRxPhase {s : State} {e : Event} {p : RxPhase} (hs : s.rxPhase ≠ .handoff) (hp : p ≠ .handoff)
    (he : e.agent ≠ .receivePort) : ({ s with rxPhase := p } : State).accepts e = s.accepts e := by
  have hd : decode ({ s with rxPhase := p } : State).context e = decode s.context e := by
    cases e with
    | rx | rxErr => exact absurd rfl he
    | emit | command => rfl
  unfold State.accepts
  rw [hd]
  split
  · next i hi =>
    refine State.enabled_withRxPhase hs hp ?_
    rw [(decode_sound hi).2]
    cases e <;> exact he
  · rfl

/-- Settles O11: RXERR only sets the phase, to one that takes no bytes, presents no frame, and that IFUP keeps. -/
theorem rxErrFailsTheReceivePath : Obligations.RxErrFailsTheReceivePath := by
  intro s
  have hiff := s.accepts_receive_iff (e := .rxErr) rfl
  refine ⟨hiff, fun ha => ?_, fun hp => ?_, fun hl hp => ?_⟩
  · obtain ⟨hl, hp⟩ := hiff.1 ha
    refine ⟨exec_of_receive hl (by simpa [selects] using rxPhase_ready_iff.2 hp) rfl, fun e he => ?_⟩
    refine State.accepts_withRxPhase (by rcases hp with hp | hp | hp <;> simp [hp]) (by simp) ?_
    rcases he with rfl | ⟨w, rfl⟩ <;> simp [Event.agent]
  · have hheld {e : Event} (he : e.agent = .receivePort) : s.accepts e = false := by
      simp [Bool.eq_false_iff, State.accepts_receive_iff he, hp]
    exact ⟨hheld rfl, fun b => hheld rfl⟩
  · have hcommand {i : Instr} (hsel : selects s.context i = true) (hb : s.busyHold i = false) : s.enabled i = true :=
      (s.enabled_iff i).2 ⟨hl, hsel, hb⟩
    refine ⟨⟨_, exec_of_enabled (hcommand rfl rfl), ?_⟩, fun i v hi => ⟨?_, ?_⟩⟩
    · cases hu : s.up <;> simp [effect, hu, hp, State.rxReady, RxPhase.ready]
    · rw [exec_of_enabled (hcommand rfl rfl)]
      simp [effect, State.indexOk, hi, State.frameValid, hp, State.raise]
    · rw [exec_of_enabled (hcommand rfl rfl)]
      simp [effect, State.indexOk, hi, State.frameValid, hp, State.raise]

end Sys2Proof.Machine
end

section
/-! The frame being assembled is the values passed to STORE, cut to CAP (40_receive.md R112, R113). -/

namespace Sys2Proof.Machine

/-! ## The frame and the values stored -/

/-- STORE appends its value to the frame, as far as the capacity goes. -/
theorem State.frame_store {s : State} {x : List Byte} (v : Byte) (hwf : s.rxBuf.wf) (h : s.frame = x.take s.cap) :
    (s.store v).frame = (x ++ [v]).take s.cap := by
  have hlen : s.rxLen = min s.cap x.length := by rw [← s.frame_length, h, List.length_take]
  rcases Nat.lt_or_ge s.rxLen s.cap with hc | hc
  · have hx : s.frame = x := by rw [h, List.take_of_length_le (by omega)]
    have hbytes : (s.store v).bytes .rxbuf s.rxLen = s.frame :=
      State.bytes_congr fun k hk => by rw [State.readByte_store hwf, if_neg (by omega)]
    have hbyte : (s.store v).readByte .rxbuf s.rxLen = v := by rw [State.readByte_store hwf, if_pos ⟨hc, rfl⟩]
    rw [State.frame, State.store_rxLen, if_pos hc, State.bytes_succ, hbytes, hbyte, hx,
      List.take_of_length_le (by simp; omega)]
  · rw [State.store_full v hc, h, List.take_append_of_le_length (by omega)]

/-- The phases in which `rx_buf` holds the frame begun last: the frame being assembled, or the frame presented. -/
def holdsFrame : RxPhase → Bool
  | .body | .escaped | .handoff => true
  | .start | .reply | .failed => false

/-- The values passed to STORE since the frame began are `x`: none before its first byte, and the frame is `x` cut to
CAP. -/
structure State.Assembled (s : State) (x : List Byte) : Prop where
  wf : s.rxBuf.wf
  before : s.rxPhase = .start ∨ s.rxPhase = .reply → x = []
  frame : holdsFrame s.rxPhase = true → s.frame = x.take s.cap

section
variable {s : State} {x : List Byte}

/-- The buffer and the length stay as they are, and a phase of the frame comes from one. -/
theorem State.Assembled.congr {t : State} (h : s.Assembled x) (hb : t.rxBuf = s.rxBuf) (hl : t.rxLen = s.rxLen)
    (hm : t.maxpkt = s.maxpkt) (hbefore : t.rxPhase = .start ∨ t.rxPhase = .reply → x = [])
    (hin : holdsFrame t.rxPhase = true → holdsFrame s.rxPhase = true) : t.Assembled x where
  wf := hb ▸ h.wf
  before := hbefore
  frame hp := by rw [State.frame_congr hb hl, State.cap_congr hm, h.frame (hin hp)]

/-- STORE in a frame, and the return to BODY. -/
theorem State.Assembled.store (h : s.Assembled x) (hs : holdsFrame s.rxPhase = true) (v : Byte) :
    ({ s.store v with rxPhase := .body } : State).Assembled (x ++ [v]) where
  wf := State.store_rxBuf_wf h.wf
  before hp := by simp at hp
  frame _ := by
    have hcap : (s.store v).cap = s.cap := State.store_cap s v
    exact hcap ▸ State.frame_store v h.wf (h.frame hs)

/-- A selected receive class adds to the frame what it passes to STORE (40_receive.md R112). -/
theorem State.Assembled.receive {i : Instr} (h : s.Assembled x) (hsel : selects s.context i = true)
    (hi : (encode i).agent = .receivePort) : (effect s i).Assembled (x ++ storedBy i) := by
  cases i with
  | rxDiscard b =>
    rw [storedBy, List.append_nil]
    exact h.congr rfl rfl rfl h.before id
  | rxErr =>
    rw [storedBy, List.append_nil]
    exact h.congr rfl rfl rfl (by simp [effect]) (by simp [effect, holdsFrame])
  | rxStartEnd =>
    have hp : s.rxPhase = .start := by simp_all [selects]
    rw [h.before (.inl hp)]
    exact ⟨h.wf, by simp [effect], fun _ => by simp [effect, State.frame, State.bytes, storedBy]⟩
  | rxStartData b =>
    have hp : s.rxPhase = .start := by simp_all [selects]
    rw [h.before (.inl hp)]
    refine ⟨Memory.write_wf h.wf, by simp [effect], fun _ => ?_⟩
    have hcap : [b].length ≤ s.cap := Nat.le_trans Nat.one_lt_two.le s.two_le_cap
    have hframe : (effect s (.rxStartData b)).frame = [b] :=
      congrArg (fun v => [v]) (Memory.read_write_same (a := 0) h.wf)
    exact hframe.trans (List.take_of_length_le hcap).symm
  | rxEnd =>
    have hp : s.rxPhase = .body := by simp_all [selects]
    rw [storedBy, List.append_nil, effect]
    split
    · exact h.congr rfl rfl rfl (by simp) (by simp [hp, holdsFrame])
    · exact h.congr rfl rfl rfl h.before id
  | rxEsc =>
    have hp : s.rxPhase = .body := by simp_all [selects]
    rw [storedBy, List.append_nil]
    exact h.congr rfl rfl rfl (by simp [effect]) (by simp [effect, hp, holdsFrame])
  | rxData b =>
    have hp : s.rxPhase = .body := by simp_all [selects]
    have hstore := h.store (by simp [hp, holdsFrame]) b
    exact hstore.congr rfl rfl rfl (by simp [effect, hp]) (by simp [effect, holdsFrame])
  | rxEscEnd | rxEscEsc | rxEscBad b =>
    have hp : s.rxPhase = .escaped := by simp_all [selects]
    have hstore (v : Byte) := h.store (by simp [hp, holdsFrame]) v
    exact (hstore _).congr rfl rfl rfl (by simp [effect]) (by simp [effect, holdsFrame])
  | _ => cases hi

/-! ## Over a whole trace -/

/-- The other agents' instructions, IFUP, ACK and WRX apart, leave the receive path alone, but for the phase at the end of
an encode (10_state.md R22 to R24). -/
theorem receivePath_kept {i : Instr} (hi : (encode i).agent ≠ .receivePort) (hifup : i ≠ .ifup)
    (hack : ∀ n, i ≠ .ack n) (hwrx : ∀ k v, i ≠ .wrx k v) :
    (effect s i).rxBuf = s.rxBuf ∧ (effect s i).rxLen = s.rxLen ∧
      (i ≠ .txTrail → (effect s i).rxPhase = s.rxPhase) := by
  cases i with
  | rxDiscard | rxStartEnd | rxStartData | rxEnd | rxEsc | rxData | rxEscEnd | rxEscEsc | rxEscBad | rxErr =>
    exact absurd rfl hi
  | ifup => exact absurd rfl hifup
  | ack n => exact absurd rfl (hack n)
  | wrx k v => exact absurd rfl (hwrx k v)
  | _ => simp [effect, apply_ite State.toBlock, apply_ite Block.rxBuf, apply_ite Block.rxLen, apply_ite Block.rxPhase]

/-- So they keep the frame: a reply that ends leaves START, with no frame begun (10_state.md R35 item 3). -/
theorem State.Assembled.other {i : Instr} (h : s.Assembled x) (hinv : s.Inv) (hsel : selects s.context i = true)
    (hi : (encode i).agent ≠ .receivePort) (hifup : i ≠ .ifup) (hack : ∀ n, i ≠ .ack n) (hwrx : ∀ k v, i ≠ .wrx k v) :
    (effect s i).Assembled x := by
  obtain ⟨hb, hl, hp⟩ := receivePath_kept (s := s) hi hifup hack hwrx
  by_cases hreply : i = .txTrail ∧ s.encSrc = .rxbuf
  · obtain ⟨rfl, hsrc⟩ := hreply
    have hbefore : s.rxPhase = .reply := hinv.reply_iff.2 ⟨encPhase_of_selects hsel rfl, hsrc⟩
    exact h.congr hb hl rfl (fun _ => h.before (.inr hbefore)) (by simp [effect, hsrc, holdsFrame])
  · have hkept : (effect s i).rxPhase = s.rxPhase := by
      by_cases htrail : i = .txTrail
      · subst htrail
        have hsrc : s.encSrc ≠ .rxbuf := fun hsrc => hreply ⟨rfl, hsrc⟩
        simp [effect, hsrc]
      · exact hp htrail
    exact h.congr hb hl (by simp) (hkept ▸ h.before) (hkept ▸ id)

/-- Only the receive classes pass a value to STORE. -/
theorem storedBy_of_other {i : Instr} (hi : (encode i).agent ≠ .receivePort) : storedBy i = [] := by
  cases i with
  | rxStartData | rxData | rxEscEnd | rxEscEsc | rxEscBad => exact absurd rfl hi
  | _ => rfl

/-- An instruction that takes effect, IFUP, ACK and WRX apart, adds to the frame what it passes to STORE. -/
theorem State.Assembled.step {i : Instr} (h : s.Assembled x) (hinv : s.Inv) (hsel : selects s.context i = true)
    (hifup : i ≠ .ifup) (hack : ∀ n, i ≠ .ack n) (hwrx : ∀ k v, i ≠ .wrx k v) :
    (effect s i).Assembled (x ++ storedBy i) := by
  by_cases hi : (encode i).agent = .receivePort
  · exact h.receive hsel hi
  · rw [storedBy_of_other hi, List.append_nil]
    exact h.other hinv hsel hi hifup hack hwrx

end

/-! ## Over a whole trace -/

theorem operandsOnly_op (w : CommandWord) : w.operandsOnly.op = w.op := by
  unfold CommandWord.operandsOnly
  split <;> rfl

/-- An event whose class is a command's is that command. -/
theorem command_of_decode {c : DecodeContext} {e : Event} {i : Instr} {w : CommandWord} (hd : decode c e = .ok i)
    (hi : encode i = .command w) : ∃ w', e = .command w' ∧ w'.op = w.op := by
  rw [(decode_sound hd).2] at hi
  cases e with
  | command w' =>
    cases hi
    exact ⟨w', rfl, (operandsOnly_op w').symm⟩
  | _ => cases hi

/-- What an event and the trace after it pass to STORE. -/
theorem storedAlong_cons {e : Event} {es : List Event} {s : State} {i : Instr} (hd : decode s.context e = .ok i)
    (hi : s.enabled i = true) : storedAlong (e :: es) s = storedBy i ++ storedAlong es (effect s i) := by
  simp [storedAlong, hd, deliver_of_enabled hd hi]

/-- Over a valid trace without IFUP, ACK and WRX the values stored pile up. -/
theorem State.Assembled.trace {es : List Event} {s t : State} {x : List Byte} (h : s.Assembled x) (hinv : s.Inv)
    (hes : ∀ w, Event.command w ∈ es → w.op ≠ 0x1#4 ∧ w.op ≠ 0x3#4 ∧ w.op ≠ 0x7#4) (ht : runTrace es s = some t) :
    t.Assembled (x ++ storedAlong es s) ∧ t.Inv ∧ t.maxpkt = s.maxpkt := by
  induction es generalizing s x with
  | nil =>
    cases ht
    exact ⟨by simpa [storedAlong] using h, hinv, rfl⟩
  | cons e es ih =>
    obtain ⟨i, hd, hi, hrest⟩ := runTrace_cons_cases ht
    have hop {w : CommandWord} (hw : encode i = .command w) : w.op ≠ 0x1#4 ∧ w.op ≠ 0x3#4 ∧ w.op ≠ 0x7#4 := by
      obtain ⟨w', rfl, hop⟩ := command_of_decode hd hw
      exact hop ▸ hes w' List.mem_cons_self
    have hstep : (effect s i).Assembled (x ++ storedBy i) :=
      h.step hinv (decode_sound hd).1 (by rintro rfl; exact (hop rfl).1 rfl) (by rintro n rfl; exact (hop rfl).2.1 rfl)
        (by rintro k v rfl; exact (hop rfl).2.2 rfl)
    obtain ⟨hall, hinv', hm⟩ :=
      ih hstep (hinv.effect_of_enabled hi) (fun w hw => hes w (List.mem_cons_of_mem _ hw)) hrest
    rw [storedAlong_cons hd hi, ← List.append_assoc]
    exact ⟨hall, hinv', by rw [hm, effect_maxpkt]⟩

/-- Settles O55: nothing is stored before the trace, and in HANDOFF the frame is what the trace stored, cut to CAP. -/
theorem frameContent : Obligations.FrameContent := by
  intro es s t hinv hp _ hes ht hhandoff
  have hstart : s.Assembled [] := ⟨hinv.rxBuf_wf, fun _ => rfl, by simp [hp, holdsFrame]⟩
  obtain ⟨hall, hinv', hm⟩ := hstart.trace hinv hes ht
  have hframe : t.frame = (storedAlong es s).take s.cap := by
    rw [hall.frame (by simp [hhandoff, holdsFrame]), State.cap_congr hm, List.nil_append]
  refine ⟨hframe, ?_, hinv'.handoff_nonempty hhandoff⟩
  rw [← t.frame_length, hframe, List.length_take, Nat.min_comm]

end Sys2Proof.Machine
end

section
/-! Received bytes in a trace: the bytes of a frame, the END that closes it and the ENDs between frames, and bytes while
the interface is down (40_receive.md R114, R116, R117). -/

namespace Sys2Proof.Machine

/-! ## One byte -/

/-- A byte of a selected class at the head of a trace has that class's effect. -/
theorem runTrace_rxs_cons {s : State} {i : Instr} {b : Byte} (bs : List Byte) (hl : s.live = true)
    (hsel : selects s.context i = true) (henc : encode i = .rx b) :
    runTrace (rxs (b :: bs)) s = runTrace (rxs bs) (effect s i) :=
  runTrace_cons (henc ▸ decode_encode i s.context hsel) (State.enabled_of_port hl hsel (by simp [henc, Event.agent]))

/-- A received byte sets no run mark and leaves `UP` alone. -/
theorem receive_keeps_live_up {s : State} {i : Instr} {b : Byte} (hsel : selects s.context i = true)
    (henc : encode i = .rx b) : (effect s i).live = s.live ∧ (effect s i).up = s.up := by
  obtain ⟨-, -, -, hfault, hrefused, -, -⟩ := receive_outputs hsel henc
  refine ⟨by simp [State.live, hfault, hrefused], ?_⟩
  by_contra hne
  obtain rfl | rfl := writer_of_up hne <;> cases henc

@[simp] theorem effect_cap (s : State) (i : Instr) : (effect s i).cap = s.cap := State.cap_congr (effect_maxpkt s i)

/-! ## Bytes inside a frame -/

/-- The interface is up, the run goes on, and the receive path is in phase `p` with the values `x` stored. -/
structure State.Receiving (s : State) (p : RxPhase) (x : List Byte) : Prop where
  live : s.live = true
  up : s.up = true
  phase : s.rxPhase = p
  assembled : s.Assembled x

/-- The bytes take `s` to `t`, and each of them outputs ASSEMBLING with no violation. -/
structure State.Absorbs (s : State) (bs : List Byte) (t : State) : Prop where
  run : runTrace (rxs bs) s = some t
  cap : t.cap = s.cap
  outputs : t.outputs = s.outputs ++ List.replicate bs.length (.received .assembling false)

theorem State.Absorbs.refl (s : State) : s.Absorbs [] s := ⟨rfl, rfl, by simp⟩

theorem State.Absorbs.trans {s t u : State} {bs cs : List Byte} (h : s.Absorbs bs t) (h' : t.Absorbs cs u) :
    s.Absorbs (bs ++ cs) u where
  run := by rw [rxs, List.map_append, runTrace_append]; exact h.run ▸ h'.run
  cap := h'.cap.trans h.cap
  outputs := by rw [h'.outputs, h.outputs, List.length_append, List.replicate_add, List.append_assoc]

section
variable {s : State} {p q : RxPhase} {x : List Byte} {i : Instr} {b : Byte}

/-- A byte's class moves the phase and stores what it passes to STORE. -/
theorem State.Receiving.byte (h : s.Receiving p x) (hsel : selects s.context i = true) (henc : encode i = .rx b)
    (hq : (effect s i).rxPhase = q) : (effect s i).Receiving q (x ++ storedBy i) := by
  obtain ⟨hl, hu⟩ := receive_keeps_live_up hsel henc
  exact ⟨hl.trans h.live, hu.trans h.up, hq, h.assembled.receive hsel (by rw [henc]; rfl)⟩

theorem State.Receiving.absorbs (h : s.Receiving p x) (hsel : selects s.context i = true) (henc : encode i = .rx b)
    (hout : (effect s i).outputs = s.outputs ++ [.received .assembling false]) : s.Absorbs [b] (effect s i) :=
  ⟨runTrace_rxs_cons [] h.live hsel henc, effect_cap s i, hout⟩

/-- The frame is the values stored, cut to CAP (40_receive.md R112). -/
theorem State.Receiving.frame_eq (h : s.Receiving p x) (hp : holdsFrame p = true) : s.frame = x.take s.cap :=
  h.assembled.frame (h.phase ▸ hp)

/-- The length is that of the frame (40_receive.md R113). -/
theorem State.Receiving.rxLen_eq (h : s.Receiving p x) (hp : holdsFrame p = true) : s.rxLen = min s.cap x.length := by
  rw [← s.frame_length, h.frame_eq hp, List.length_take]

/-- ESC opens an escape (40_receive.md R106). -/
theorem State.Receiving.esc (h : s.Receiving .body x) : s.Absorbs [ESC] (effect s .rxEsc) ∧
    (effect s .rxEsc).Receiving .escaped x := by
  have hsel : selects s.context .rxEsc = true := by simp [selects, h.up, h.phase]
  exact ⟨h.absorbs hsel rfl rfl, by simpa [storedBy] using h.byte (q := .escaped) hsel rfl rfl⟩

/-- The wire form of one byte stores that byte (30_encoding.md R72). -/
theorem State.Receiving.stuffed (h : s.Receiving .body x) (b : Byte) :
    ∃ t, s.Absorbs (stuff b) t ∧ t.Receiving .body (x ++ [b]) := by
  obtain ⟨habs, hesc⟩ := h.esc
  by_cases h1 : b = END
  · subst h1
    have hsel : selects (effect s .rxEsc).context .rxEscEnd = true := by simp [selects, hesc.up, hesc.phase]
    exact ⟨_, habs.trans (hesc.absorbs hsel rfl (by simp [effect])), hesc.byte hsel rfl rfl⟩
  by_cases h2 : b = ESC
  · subst h2
    have hsel : selects (effect s .rxEsc).context .rxEscEsc = true := by simp [selects, hesc.up, hesc.phase]
    exact ⟨_, habs.trans (hesc.absorbs hsel rfl (by simp [effect])), hesc.byte hsel rfl rfl⟩
  · rw [stuff_other h1 h2]
    have hsel : selects s.context (.rxData b) = true := by simp [selects, h.up, h.phase, h1, h2]
    exact ⟨_, h.absorbs hsel rfl (by simp [effect]), h.byte hsel rfl (by simp [effect, h.phase])⟩

/-- The wire form of any bytes stores them. -/
theorem State.Receiving.flatMap_stuff (h : s.Receiving .body x) (y : List Byte) :
    ∃ t, s.Absorbs (y.flatMap stuff) t ∧ t.Receiving .body (x ++ y) := by
  induction y generalizing s x with
  | nil => exact ⟨s, .refl s, by simpa using h⟩
  | cons b y ih =>
    obtain ⟨t, habs, ht⟩ := h.stuffed b
    obtain ⟨u, habs', hu⟩ := ih ht
    exact ⟨u, by simpa using habs.trans habs', by simpa using hu⟩

/-- END closes a frame with a byte: the frame is presented (40_receive.md R105). -/
theorem State.Receiving.close (h : s.Receiving .body x) (hx : x ≠ []) :
    runTrace (rxs [END]) s = some (effect s .rxEnd) ∧ (effect s .rxEnd).Receiving .handoff x ∧
      (effect s .rxEnd).outputs = s.outputs ++ [.received .complete false] := by
  have hsel : selects s.context .rxEnd = true := by simp [selects, h.up, h.phase]
  have hpos : 0 < s.rxLen := by
    have hcap := s.two_le_cap
    have hlen := List.length_pos_of_ne_nil hx
    rw [h.rxLen_eq rfl]
    omega
  exact ⟨runTrace_rxs_cons [] h.live hsel rfl,
    by simpa [storedBy] using h.byte hsel rfl (by simp [effect, hpos]), by simp [effect, hpos]⟩

end

/-! ## END at a frame boundary -/

/-- Up at a frame boundary, with no byte of a frame received (40_receive.md R114). -/
structure State.AtBoundary (s : State) : Prop where
  live : s.live = true
  up : s.up = true
  phase : s.rxPhase = .start ∨ (s.rxPhase = .body ∧ s.rxLen = 0)

theorem State.Receiving.atBoundary {s : State} (h : s.Receiving .body []) : s.AtBoundary :=
  ⟨h.live, h.up, .inr ⟨h.phase, by simp [h.rxLen_eq rfl]⟩⟩

/-- The result of END at a frame boundary: the start of a frame or a keep-alive. -/
def State.boundaryResult (s : State) : RxResult := if s.rxPhase = .start then .assembling else .discarded

/-- After END at a frame boundary: an empty frame in BODY. -/
def State.opened (s : State) : State := ({ s with rxLen := 0, rxPhase := .body } : State).result s.boundaryResult false

@[simp] theorem State.opened_cap (s : State) : s.opened.cap = s.cap := rfl

theorem State.opened_outputs (s : State) :
    s.opened.outputs = s.outputs ++ [.received s.boundaryResult false] := rfl

/-- END at a frame boundary opens an empty frame, or leaves it empty (40_receive.md R103, R105). -/
theorem State.AtBoundary.runTrace_end {s : State} (h : s.AtBoundary) (bs : List Byte) :
    runTrace (rxs (END :: bs)) s = runTrace (rxs bs) s.opened := by
  obtain hp | ⟨hp, hlen⟩ := h.phase
  · rw [runTrace_rxs_cons (i := .rxStartEnd) bs h.live (by simp [selects, h.up, hp]) rfl]
    simp [effect, State.opened, State.boundaryResult, hp]
  · rw [runTrace_rxs_cons (i := .rxEnd) bs h.live (by simp [selects, h.up, hp]) rfl]
    have hkept : ({ s with rxLen := 0, rxPhase := .body } : State) = s := by rw [← hlen, ← hp]
    simp [effect, State.opened, State.boundaryResult, hkept, hlen, hp]

theorem State.AtBoundary.opened {s : State} (h : s.AtBoundary) : s.opened.AtBoundary :=
  ⟨h.live, h.up, .inr ⟨rfl, rfl⟩⟩

theorem State.AtBoundary.opened_receiving {s : State} (h : s.AtBoundary) (hwf : s.rxBuf.wf) :
    s.opened.Receiving .body [] :=
  ⟨h.live, h.up, rfl, hwf, fun _ => rfl, fun _ => by simp [State.opened, State.frame, State.bytes]⟩

theorem State.AtBoundary.ne_handoff {s : State} (h : s.AtBoundary) : s.rxPhase ≠ .handoff := by
  obtain hp | ⟨hp, -⟩ := h.phase <;> simp [hp]

/-- ENDs at a frame boundary present no frame (40_receive.md R116). -/
theorem State.AtBoundary.runTrace_ends {s : State} (h : s.AtBoundary) (k : Nat) :
    ∃ (t : State) (os : List Output), runTrace (rxs (List.replicate k END)) s = some t ∧ t.AtBoundary ∧
      t.outputs = s.outputs ++ os ∧ ∀ f, Output.received .complete f ∉ os := by
  induction k generalizing s with
  | zero => exact ⟨s, [], rfl, h, by simp, by simp⟩
  | succ k ih =>
    obtain ⟨t, os, hrun, ht, hout, hos⟩ := ih h.opened
    refine ⟨t, .received s.boundaryResult false :: os, ?_, ht, by simp [hout, State.opened], fun f hf => ?_⟩
    · rw [List.replicate_succ, h.runTrace_end, hrun]
    · obtain heq | hmem := List.mem_cons.1 hf
      · simp only [State.boundaryResult] at heq
        split at heq <;> cases heq
      · exact hos f hmem

/-- A received byte that outputs something was run as its class, whose row is selected. -/
theorem deliver_rx_cases {b : Byte} {s t : State} (h : deliver (.rx b) s = .next t) (hout : t.outputs ≠ s.outputs) :
    ∃ i, selects s.context i = true ∧ encode i = .rx b ∧ t = effect s i := by
  unfold deliver at h
  split at h
  · next i hd =>
    obtain ⟨hsel, henc⟩ := decode_sound hd
    obtain ⟨-, rfl⟩ | ⟨-, rfl⟩ := exec_cases h
    · exact ⟨i, hsel, henc, rfl⟩
    · exact absurd rfl hout
  · cases h
    exact absurd rfl hout

/-- Settles O57: COMPLETE comes with the handoff, which begins with RX.END on a frame that is not empty; and ENDs at a
frame boundary stay at one. -/
theorem noEmptyFrame : Obligations.NoEmptyFrame := by
  refine ⟨fun b s t f ht hout => ?_, fun k s hl hu hp => ?_⟩
  · obtain ⟨i, hsel, henc, rfl⟩ := deliver_rx_cases ht (by simp [hout])
    obtain ⟨c, f', hout', -, -, -, hcomplete⟩ := receive_outputs hsel henc
    obtain ⟨rfl, -⟩ : RxResult.complete = c ∧ f = f' := by simpa [hout] using hout'
    have hhandoff := hcomplete.1 rfl
    have hne : s.rxPhase ≠ .handoff := ne_handoff_of_ready (ready_of_selects hsel (by rw [henc]; rfl))
    obtain ⟨rfl, hlen, heq⟩ := handoff_begins_with_rxEnd hne hhandoff
    exact ⟨hhandoff, by simpa [heq] using Nat.succ_le_of_lt hlen⟩
  · obtain ⟨t, os, hrun, ht, hrest⟩ := (State.AtBoundary.mk hl hu hp).runTrace_ends k
    exact ⟨t, os, hrun, ht.ne_handoff, hrest⟩

/-! ## The round trip -/

/-- The first END and the pieces of a frame: the frame is assembled in BODY. -/
theorem State.AtBoundary.assemble {s : State} (h : s.AtBoundary) (hwf : s.rxBuf.wf) (x : List Byte) :
    ∃ t, s.opened.Absorbs (x.flatMap stuff) t ∧ t.Receiving .body x ∧
      runTrace (rxs (wireEncode x)) s = runTrace (rxs [END]) t := by
  obtain ⟨t, habs, ht⟩ := (h.opened_receiving hwf).flatMap_stuff x
  refine ⟨t, habs, ht, ?_⟩
  have hrun : runTrace (rxs (wireEncode x)) s = runTrace (rxs (x.flatMap stuff ++ [END])) s.opened :=
    h.runTrace_end _
  rw [hrun, rxs, List.map_append, runTrace_append]
  exact congrArg (Option.bind · (runTrace (rxs [END]))) habs.run

/-- Settles O54: the first END opens the frame, the pieces assemble it, and the last END presents it if it has a byte. -/
theorem receiveRoundTrip : Obligations.ReceiveRoundTrip := by
  intro x s hl hu hwf hp
  have hs : s.AtBoundary := ⟨hl, hu, hp⟩
  obtain ⟨u, habs, hu', hrun⟩ := hs.assemble hwf x
  obtain ⟨os, hos, hout⟩ : ∃ os : List Output,
      (∀ o ∈ os, o = .received .assembling false ∨ o = .received .discarded false) ∧ u.outputs = s.outputs ++ os := by
    refine ⟨.received s.boundaryResult false :: List.replicate (x.flatMap stuff).length (.received .assembling false),
      fun o ho => ?_, by rw [habs.outputs, State.opened_outputs, List.append_assoc, List.singleton_append]⟩
    obtain rfl | hmem := List.mem_cons.1 ho
    · simp only [State.boundaryResult]
      split <;> simp
    · exact .inl (List.eq_of_mem_replicate hmem)
  have hcap : u.cap = s.cap := habs.cap
  rw [hrun]
  by_cases hx : x = []
  · subst hx
    refine ⟨u.opened, os, hu'.atBoundary.runTrace_end [], hos, by simp, by simp, fun _ => ⟨rfl, rfl, ?_⟩⟩
    simp [State.opened, State.boundaryResult, hu'.phase, hout]
  · obtain ⟨hclose, ht, hlast⟩ := hu'.close hx
    have hframe : (effect u .rxEnd).frame = x.take s.cap := by
      rw [ht.frame_eq rfl, effect_cap, hcap]
    exact ⟨_, os, hclose, hos, fun _ hle => by rw [hframe, List.take_of_length_le hle],
      fun _ => ⟨ht.phase, hframe, by rw [hlast, hout]⟩, fun h => absurd h hx⟩

/-! ## While the interface is down -/

/-- Bytes while down are lost, one by one (40_receive.md R102). -/
theorem runTrace_rxs_down {s : State} (hl : s.live = true) (hu : s.up = false) (hp : s.rxPhase.ready = true)
    (bs : List Byte) : runTrace (rxs bs) s =
      some { s with outputs := s.outputs ++ List.replicate bs.length (.received .discarded false) } := by
  induction bs generalizing s with
  | nil => simp [rxs]
  | cons b bs ih =>
    have hsel : selects s.context (.rxDiscard b) = true := by simp [selects, hu, hp]
    have hrest := ih (s := effect s (.rxDiscard b)) hl hu hp
    rw [runTrace_rxs_cons bs hl hsel rfl, hrest]
    simp [effect, State.result, List.replicate_succ]

/-- IFDOWN at the head of a trace (42_host.md R153). -/
theorem runTrace_ifdown {s : State} (es : List Event) (hl : s.live = true) :
    runTrace (evIfdown :: es) s = runTrace es (({ s with up := false } : State).respond .ok) :=
  runTrace_cons rfl ((s.enabled_iff .ifdown).2 ⟨hl, rfl, rfl⟩)

/-- IFUP on the up edge, in a phase that takes bytes (42_host.md R152). -/
theorem runTrace_ifup {s : State} (es : List Event) (hl : s.live = true) (hu : s.up = false)
    (hp : s.rxPhase.ready = true) : runTrace (evIfup :: es) s =
      runTrace es (({ s with up := true, rxPhase := .start, rxLen := 0 } : State).respond .ok) := by
  rw [runTrace_cons (i := .ifup) rfl ((s.enabled_iff .ifup).2 ⟨hl, rfl, rfl⟩)]
  simp [effect, hu, State.rxReady, hp]

/-- Settles O58: down, the bytes are lost and the frame stays; the up edge then starts afresh. -/
theorem downAndUpDropsThePartialFrame : Obligations.DownAndUpDropsThePartialFrame := by
  intro bs s hl hp
  have hready : s.rxPhase.ready = true := rxPhase_ready_iff.2 (.inr hp)
  have hdown := runTrace_rxs_down (s := ({ s with up := false } : State).respond .ok) hl rfl hready bs
  exact ⟨_, _, (runTrace_ifdown (rxs bs) hl).trans hdown, rfl, rfl, rfl, by simp, runTrace_ifup [] hl rfl hready,
    rfl, rfl, rfl⟩

end Sys2Proof.Machine
end

section
/-! Resynchronisation: bytes fed with the host answering every COMPLETE with ACK 0, and the frames presented
(40_receive.md R115). -/

namespace Sys2Proof.Machine

/-! ## Frames presented -/

/-- Feeding `bs` from `s` presents the frames `fs` and ends in `t`, whatever is fed after it. -/
def State.Presents (s : State) (bs : List Byte) (fs : List (List Byte)) (t : State) : Prop :=
  ∀ cs, feedReleasing (bs ++ cs) s = (feedReleasing cs t).map fun r => (fs ++ r.1, r.2)

theorem State.Presents.trans {s t u : State} {bs cs : List Byte} {fs gs : List (List Byte)}
    (h : s.Presents bs fs t) (h' : t.Presents cs gs u) : s.Presents (bs ++ cs) (fs ++ gs) u := fun ds => by
  simp only [List.append_assoc, h (cs ++ ds), h' ds, Option.map_map, Function.comp_def]

/-- Nothing more is fed. -/
theorem State.Presents.feed {s t : State} {bs : List Byte} {fs : List (List Byte)} (h : s.Presents bs fs t) :
    feedReleasing bs s = some (fs, t) := by
  simpa [feedReleasing] using h []

/-- A presented frame takes no byte. -/
theorem runTrace_rxs_of_frameValid {s t : State} {bs : List Byte} (hv : s.frameValid = true)
    (h : runTrace (rxs bs) s = some t) : t.frameValid = true := by
  cases bs with
  | nil => cases h; exact hv
  | cons b bs =>
    have hp : s.rxPhase = .handoff := by simpa [State.frameValid] using hv
    obtain ⟨i, hd, hi, -⟩ := runTrace_cons_cases h
    have ha := (s.accepts_iff _).2 ⟨i, hd, hi⟩
    simp [State.accepts_receive_iff (e := .rx b) rfl, hp] at ha

/-- A run of bytes that does not end in a handoff presents nothing on its way. -/
theorem State.Presents.of_run {s t : State} {bs : List Byte} (h : runTrace (rxs bs) s = some t)
    (ht : t.frameValid = false) : s.Presents bs [] t := by
  intro cs
  induction bs generalizing s with
  | nil => cases h; simp
  | cons b bs ih =>
    obtain ⟨i, hd, hi, hrest⟩ := runTrace_cons_cases h
    have hone : runTrace [.rx b] s = some (effect s i) := runTrace_cons hd hi
    have hv : (effect s i).frameValid = false := by
      by_contra hv
      rw [runTrace_rxs_of_frameValid (by simpa using hv) hrest] at ht
      cases ht
    simpa [feedReleasing, hone, hv] using ih hrest

/-- The frame presented released, with no reply. -/
def State.released (s : State) : State := ({ s with rxLen := 0, rxPhase := .start } : State).respond .ok

/-- ACK 0 releases the frame presented (42_host.md R154). -/
theorem runTrace_ack_zero {s : State} (hl : s.live = true) (hv : s.frameValid = true) :
    runTrace [evAck 0] s = some s.released := by
  rw [runTrace_cons (i := .ack 0) rfl ((s.enabled_iff _).2 ⟨hl, rfl, rfl⟩)]
  simp [effect, State.lengthOk, hv, State.released]

theorem State.Receiving.released {s : State} {x : List Byte} (h : s.Receiving .handoff x) :
    s.released.Receiving .start [] :=
  ⟨h.live, h.up, rfl, h.assembled.wf, fun _ => rfl, by simp [State.released, holdsFrame]⟩

section
variable {s : State} {x : List Byte}

/-- The END of a frame, and its release. -/
theorem State.Receiving.release (h : s.Receiving .body x) (hx : x ≠ []) :
    ∃ t, s.Presents [END] [x.take s.cap] t ∧ t.Receiving .start [] ∧ t.cap = s.cap := by
  obtain ⟨hrun, ht, -⟩ := h.close hx
  have hv : (effect s .rxEnd).frameValid = true := by simp [State.frameValid, ht.phase]
  have hframe : (effect s .rxEnd).frame = x.take s.cap := by
    rw [ht.frame_eq rfl, effect_cap]
  have hack := runTrace_ack_zero ht.live hv
  refine ⟨_, fun cs => ?_, ht.released, effect_cap s .rxEnd⟩
  have hone : runTrace [.rx END] s = some (effect s .rxEnd) := hrun
  simp [feedReleasing, hone, hv, hack, hframe]

/-- The rest of a frame with a byte, its END, and its release. -/
theorem State.Receiving.finish (h : s.Receiving .body x) (y : List Byte) (hxy : x ++ y ≠ []) :
    ∃ t, s.Presents (y.flatMap stuff ++ [END]) [(x ++ y).take s.cap] t ∧ t.Receiving .start [] ∧
      t.cap = s.cap := by
  obtain ⟨u, habs, hu⟩ := h.flatMap_stuff y
  obtain ⟨t, hpres, ht, hcap⟩ := hu.release hxy
  rw [habs.cap] at hpres hcap
  exact ⟨t, (State.Presents.of_run habs.run (by simp [State.frameValid, hu.phase])).trans hpres, ht, hcap⟩

theorem State.Receiving.atBoundary_start (h : s.Receiving .start x) : s.AtBoundary :=
  ⟨h.live, h.up, .inl h.phase⟩

/-- END at a frame boundary presents nothing. -/
theorem State.AtBoundary.presents_end (h : s.AtBoundary) : s.Presents [END] [] s.opened :=
  .of_run (h.runTrace_end []) rfl

/-- A frame with a byte, fed at a frame boundary, is presented. -/
theorem State.AtBoundary.presents_frame (h : s.AtBoundary) (hwf : s.rxBuf.wf) (hx : x ≠ []) :
    ∃ t, s.Presents (wireEncode x) [x.take s.cap] t ∧ t.Receiving .start [] ∧ t.cap = s.cap := by
  obtain ⟨t, hpres, ht⟩ := (h.opened_receiving hwf).finish x hx
  exact ⟨t, by simpa [wireEncode] using h.presents_end.trans hpres, ht⟩

end

/-! ## The rows of the table -/

/-- Feeding `bs` presents the frames `fs` and ends at a frame boundary. -/
def State.Delivers (s : State) (bs : List Byte) (fs : List (List Byte)) : Prop :=
  ∃ t, s.Presents bs fs t ∧ t.AtBoundary ∧ t.rxBuf.wf ∧ t.cap = s.cap

/-- After the first frames the second frame is presented whole. -/
theorem State.Delivers.second {s : State} {bs x : List Byte} {fs : List (List Byte)} (h : s.Delivers bs fs)
    (hx : 1 ≤ x.length) (hle : x.length ≤ s.cap) :
    ∃ u, feedReleasing (bs ++ wireEncode x) s = some (fs ++ [x], u) := by
  obtain ⟨t, hfirst, ht, hwf, hcap⟩ := h
  obtain ⟨u, hpres, -⟩ := ht.presents_frame hwf (List.ne_nil_of_length_pos hx)
  rw [hcap, List.take_of_length_le hle] at hpres
  exact ⟨u, (hfirst.trans hpres).feed⟩

/-- From a frame boundary: the frame cut to CAP, or none if it is empty. -/
theorem State.AtBoundary.delivers {s : State} (h : s.AtBoundary) (hwf : s.rxBuf.wf) (x : List Byte) :
    s.Delivers (wireEncode x) (if x = [] then [] else [x.take s.cap]) := by
  by_cases hx : x = []
  · subst hx
    exact ⟨s.opened.opened, h.presents_end.trans h.opened.presents_end, h.opened.opened, hwf, rfl⟩
  · obtain ⟨t, hpres, ht, hcap⟩ := h.presents_frame hwf hx
    exact ⟨t, by simpa [hx] using hpres, ht.atBoundary_start, ht.assembled.wf, hcap⟩

section
variable {s : State} {x : List Byte}

/-- From BODY with noise, an empty frame: the first END presents the noise. -/
theorem State.Receiving.delivers_noise (h : s.Receiving .body x) (hx : x ≠ []) :
    s.Delivers (wireEncode []) [x.take s.cap] := by
  obtain ⟨t, hpres, ht, hcap⟩ := h.release hx
  have hb := ht.atBoundary_start
  exact ⟨t.opened, hpres.trans hb.presents_end, hb.opened, ht.assembled.wf, hcap⟩

/-- In START with no END before it the first byte is stored as it comes, ESC included (40_receive.md R104). -/
theorem State.Receiving.first (h : s.Receiving .start []) {c : Byte} (hc : c ≠ END) :
    ∃ t, s.Absorbs [c] t ∧ t.Receiving .body [c] := by
  have hsel : selects s.context (.rxStartData c) = true := by simp [selects, h.up, h.phase, hc]
  exact ⟨_, h.absorbs hsel rfl (by simp [effect]), h.byte hsel rfl rfl⟩

/-- The wire form of a byte does not begin with END, and what follows its first byte is no control byte. -/
theorem stuff_literal (b : Byte) : ∃ c y, stuff b = c :: y ∧ c ≠ END ∧ y.flatMap stuff = y := by
  by_cases h1 : b = END
  · subst h1; exact ⟨ESC, [ESC_END], rfl, by decide, rfl⟩
  by_cases h2 : b = ESC
  · subst h2; exact ⟨ESC, [ESC_ESC], rfl, by decide, rfl⟩
  · exact ⟨b, [], stuff_other h1 h2, h1, rfl⟩

/-- The bytes of a frame whose first byte is taken literally (40_receive.md R115). -/
theorem stuff_append (b : Byte) (r : List Byte) : stuff b ++ r =
    if b = END then [ESC, ESC_END] ++ r else if b = ESC then [ESC, ESC_ESC] ++ r else b :: r := by
  unfold stuff
  split_ifs <;> rfl

/-- From BODY with noise, a frame with a byte: the first END presents the noise, and the wire form of the frame's first
byte is then stored literally. -/
theorem State.Receiving.delivers_noise_literal (h : s.Receiving .body x) (hx : x ≠ []) (b : Byte) (r : List Byte) :
    s.Delivers (wireEncode (b :: r)) [x.take s.cap, (stuff b ++ r).take s.cap] := by
  obtain ⟨t, hnoise, ht, hcap⟩ := h.release hx
  obtain ⟨c, y, hstuff, hc, hy⟩ := stuff_literal b
  obtain ⟨u, habs, hu⟩ := ht.first hc
  obtain ⟨v, hpres, hv, hcap'⟩ := hu.finish (y ++ r) (by simp)
  rw [habs.cap, hcap] at hpres hcap'
  have hfirst : t.Presents [c] [] u := .of_run habs.run (by simp [State.frameValid, hu.phase])
  exact ⟨v, by simpa [wireEncode_cons, hstuff, hy] using hnoise.trans (hfirst.trans hpres), hv.atBoundary_start,
    hv.assembled.wf, hcap'⟩

/-- In ESCAPED END is stored as a violation (40_receive.md R110). -/
theorem State.Receiving.escaped_end (h : s.Receiving .escaped x) :
    ∃ t, runTrace (rxs [END]) s = some t ∧ t.Receiving .body (x ++ [END]) ∧ t.cap = s.cap ∧
      t.outputs = s.outputs ++ [.received .assembling true] := by
  have hsel : selects s.context (.rxEscBad END) = true := by simp [selects, h.up, h.phase]; decide
  exact ⟨_, runTrace_rxs_cons [] h.live hsel rfl, h.byte hsel rfl rfl, effect_cap s _, by simp [effect]⟩

/-- From ESCAPED: one frame, with the first END in it. -/
theorem State.Receiving.delivers_merged (h : s.Receiving .escaped x) (y : List Byte) :
    s.Delivers (wireEncode y) [(x ++ [END] ++ y).take s.cap] := by
  obtain ⟨t, hrun, ht, hcap, -⟩ := h.escaped_end
  obtain ⟨u, hpres, hu, hcap'⟩ := ht.finish y (by simp)
  rw [hcap] at hpres hcap'
  have hfirst : s.Presents [END] [] t := .of_run hrun (by simp [State.frameValid, ht.phase])
  exact ⟨u, by simpa [wireEncode] using hfirst.trans hpres, hu.atBoundary_start, hu.assembled.wf, hcap'⟩

end

/-- Inside a frame no longer than CAP, the values stored are the frame itself. -/
theorem State.receiving_frame {s : State} (hl : s.live = true) (hu : s.up = true) (hwf : s.rxBuf.wf)
    (hlen : s.rxLen ≤ s.cap) (hp : holdsFrame s.rxPhase = true) : s.Receiving s.rxPhase s.frame := by
  refine ⟨hl, hu, rfl, hwf, fun hbefore => ?_, fun _ => (List.take_of_length_le (by simpa using hlen)).symm⟩
  rcases hbefore with h | h <;> simp [h, holdsFrame] at hp

/-- Settles O56: row by row the first frames end at a boundary, from which the second frame is presented whole. -/
theorem resynchronisation : Obligations.Resynchronisation := by
  intro x1 x2 s hl hu hwf hlen hx2 hle
  have htake : s.frame.take s.cap = s.frame := List.take_of_length_le (by simpa using hlen)
  have hframe {p : RxPhase} (hp : s.rxPhase = p) (hin : holdsFrame p = true) : s.Receiving p s.frame :=
    hp ▸ State.receiving_frame hl hu hwf hlen (hp ▸ hin)
  have hnoise (hpos : 0 < s.rxLen) : s.frame ≠ [] := List.ne_nil_of_length_pos (by simpa using hpos)
  refine ⟨fun hp => ?_, fun hp hpos hx1 => ?_, fun hp hpos b r hx1 => ?_, fun hp => ?_⟩
  · exact ((State.AtBoundary.mk hl hu hp).delivers hwf x1).second hx2 hle
  · have hrow := ((hframe hp rfl).delivers_noise (hnoise hpos)).second hx2 hle
    rwa [htake, ← hx1] at hrow
  · have hrow := ((hframe hp rfl).delivers_noise_literal (hnoise hpos) b r).second hx2 hle
    rwa [htake, stuff_append, ← hx1] at hrow
  · obtain ⟨t, hrun, -, -, hout⟩ := (hframe hp rfl).escaped_end
    exact ⟨((hframe hp rfl).delivers_merged x1).second hx2 hle, t, hrun, hout⟩

end Sys2Proof.Machine
end

section
/-! The emission classes one by one (41_transmit.md R132 to R136), and when EMIT is enabled and as which class it runs
(R130). -/

namespace Sys2Proof.Machine

/-! ## The classes -/

/-- An emission class whose row is selected takes effect. -/
theorem exec_of_emission {s : State} {i : Instr} (hl : s.live = true) (hsel : selects s.context i = true)
    (he : encode i = .emit) : exec i s = .next (effect s i) :=
  exec_of_enabled (State.enabled_of_port hl hsel (by simp [he, Event.agent]))

/-- Settles O13: the row of TX.LEAD asks for LEAD alone, whatever the length. -/
theorem txLeadEmitsEnd : Obligations.TxLeadEmitsEnd := by
  intro s hl hp
  exact exec_of_emission hl (by simp [selects, hp]) rfl

/-- Settles O14: the row of TX.DATA takes every source byte but END and ESC. -/
theorem txDataEmitsTheSourceByte : Obligations.TxDataEmitsTheSourceByte := by
  intro s hl hp hlt hend hesc
  exact exec_of_emission hl (by simp [selects, hp, hlt, needsEscape, hend, hesc]) rfl

/-- Settles O15: the row of TX.ESC takes END and ESC, and which of the two it is decides the code. -/
theorem txEscEmitsEscAndKeepsTheCode : Obligations.TxEscEmitsEscAndKeepsTheCode := by
  intro s hl hp hlt
  have hx (hb : needsEscape (s.src s.encIdx) = true) : exec .txEsc s = .next (effect s .txEsc) :=
    exec_of_emission hl (by simp [selects, hp, hlt, hb]) rfl
  refine ⟨fun hb => ?_, fun hb => ?_⟩
  · rw [hx (by rw [hb]; rfl), effect, if_pos hb]; rfl
  · rw [hx (by rw [hb]; rfl), effect, if_neg (by rw [hb]; decide)]; rfl

/-- Settles O16: the row of TX.CODE asks for ESC2 alone. -/
theorem txCodeEmitsTheCode : Obligations.TxCodeEmitsTheCode := by
  intro s hl hp
  exact exec_of_emission hl (by simp [selects, hp]) rfl

/-- Settles O17: TX.TRAIL looks at `enc_src` alone. -/
theorem txTrailEndsTheFrame : Obligations.TxTrailEndsTheFrame := by
  intro s hl hp hend
  have hx : exec .txTrail s = .next (effect s .txTrail) := exec_of_emission hl (by simp [selects, hp, hend]) rfl
  refine ⟨fun hsrc => ?_, fun hsrc => ?_⟩
  · rw [hx, effect, if_neg (by simp [hsrc])]; rfl
  · rw [hx, effect, if_pos hsrc]; rfl

/-! ## EMIT -/

/-- The class of EMIT while the encoder is on a frame, not past its end (41_transmit.md R130). -/
theorem decode_emit {s : State} (hp : s.encPhase ≠ .idle) (hle : s.encIdx ≤ s.encLen) :
    decode s.context .emit = .ok
      (if s.encPhase = .lead then .txLead
       else if s.encPhase = .data then
         (if s.encIdx = s.encLen then .txTrail
          else if s.src s.encIdx = END ∨ s.src s.encIdx = ESC then .txEsc else .txData)
       else .txCode) := by
  cases he : s.encPhase with
  | idle => exact absurd he hp
  | lead | esc2 => simp [decode, decodeEmit, he]
  | data =>
    rcases hle.eq_or_lt with hend | hlt
    · simp [decode, decodeEmit, he, hend]
    · simp [decode, decodeEmit, he, hlt, hlt.ne, needsEscape, apply_ite Except.ok]

/-- EMIT is enabled exactly while the encoder is on a frame, with no run mark set (41_transmit.md R130). -/
theorem State.accepts_emit_iff {s : State} (hle : s.encIdx ≤ s.encLen) :
    s.accepts .emit = true ↔ s.live = true ∧ s.encPhase ≠ .idle := by
  rw [State.accepts_iff]
  refine ⟨fun ⟨i, hd, hi⟩ => ?_, fun ⟨hl, hp⟩ => ?_⟩
  · obtain ⟨hsel, henc⟩ := decode_sound hd
    exact ⟨((s.enabled_iff i).1 hi).1, encPhase_of_selects hsel (by rw [henc]; rfl)⟩
  · have hd := decode_emit hp hle
    obtain ⟨hsel, henc⟩ := decode_sound hd
    exact ⟨_, hd, State.enabled_of_port hl hsel (by rw [henc]; simp [Event.operandsOnly, Event.agent])⟩

/-- An emission class emits one byte, and sets no run mark. -/
theorem emission_outputs {s : State} {i : Instr} (he : encode i = .emit) :
    ∃ b, (effect s i).outputs = s.outputs ++ [.emitted b] ∧ (effect s i).fault = s.fault ∧
      (effect s i).refused = s.refused := by
  cases i <;> cases he <;> exact ⟨_, rfl, rfl, rfl⟩

/-- Settles O12: while EMIT is enabled its class is the dispatch's, and each emission class emits one byte. -/
theorem emissionDispatch : Obligations.EmissionDispatch := by
  intro s hle
  have hiff := State.accepts_emit_iff hle
  refine ⟨hiff, fun ha => decode_emit (hiff.1 ha).2 hle, fun ha => ?_⟩
  obtain ⟨i, hd, hi⟩ := (s.accepts_iff _).1 ha
  obtain ⟨b, hout, hfault, hrefused⟩ := emission_outputs (s := s) (decode_sound hd).2
  obtain ⟨hf, hr⟩ := s.live_iff.1 (hiff.1 ha).1
  exact ⟨effect s i, b, deliver_of_enabled hd hi, hout, hfault.trans hf, hrefused.trans hr⟩

end Sys2Proof.Machine
end

section
/-! What keeps an encode as it is: every instruction that is no emission, while the encoder is busy (41_transmit.md R131,
R140; 20_memory.md R57, R58), and so the order of the emissions over every interleaving (R137). -/

namespace Sys2Proof.Machine

/-! ## What the bytes that remain depend on -/

/-- `t` has the encoder's fields of `s`. -/
structure State.EncoderKept (s t : State) : Prop where
  encPhase : t.encPhase = s.encPhase
  encSrc : t.encSrc = s.encSrc
  encLen : t.encLen = s.encLen
  encIdx : t.encIdx = s.encIdx
  encCode : t.encCode = s.encCode

theorem State.EncoderKept.of_toBlock {s t : State} (h : t.toBlock = s.toBlock) : s.EncoderKept t := by
  constructor <;> rw [h]

/-- The buffer `enc_src` names (10_state.md R27). -/
def State.sourceBuffer (s : State) : Memory := s.buffer (sourceSpace s.encSrc)

theorem State.src_eq (s : State) (k : Nat) : s.src k = s.sourceBuffer.read k := rfl

theorem State.sourceBuffer_eq (s : State) :
    s.sourceBuffer = if s.encSrc = .txbuf then s.txBuf else s.rxBuf := by
  unfold State.sourceBuffer
  cases s.encSrc <;> rfl

theorem State.sourceBuffer_congr {s t : State} (h : t.toBlock = s.toBlock) : t.sourceBuffer = s.sourceBuffer := by
  simp [State.sourceBuffer_eq, h]

/-- The frame under encode is made of the buffer `enc_src` names and `enc_len` alone (41_transmit.md R137). -/
theorem State.sourceFrame_congr {s t : State} (hb : t.sourceBuffer = s.sourceBuffer) (hl : t.encLen = s.encLen) :
    t.sourceFrame = s.sourceFrame := by
  unfold State.sourceFrame
  rw [hl]
  exact State.bytes_congr fun k _ => congrArg (Memory.read · k) hb

/-- The bytes that remain are made of the encoder's fields and its frame alone. -/
theorem State.EncoderKept.remaining {s t : State} (h : s.EncoderKept t) (hb : t.sourceBuffer = s.sourceBuffer) :
    t.remaining = s.remaining := by
  simp only [State.remaining, h.encPhase, h.encIdx, h.encCode, State.sourceFrame_congr hb h.encLen]

theorem State.remaining_congr {s t : State} (h : t.toBlock = s.toBlock) : t.remaining = s.remaining :=
  (State.EncoderKept.of_toBlock h).remaining (State.sourceBuffer_congr h)

/-! ## What keeps the encoder's fields -/

/-- Only emissions, ACK and TXSTART write the encoder's fields (10_state.md R26 to R30). -/
theorem encoderKept_of_not_writer {s : State} {i : Instr}
    (hw : ¬(encode i = .emit ∨ ∃ n, i = .ack n ∨ i = .txstart n)) : s.EncoderKept (effect s i) := by
  refine ⟨by_contra fun h => hw ?_, by_contra fun h => hw (.inr (writer_of_encSrc h)),
    by_contra fun h => hw (.inr (writer_of_encLen h)), by_contra fun h => hw ?_, by_contra fun h => hw ?_⟩
  · obtain rfl | rfl | rfl | rfl | hs := writer_of_encPhase h
    exacts [.inl rfl, .inl rfl, .inl rfl, .inl rfl, .inr hs]
  · obtain rfl | rfl | hs := writer_of_encIdx h
    exacts [.inl rfl, .inl rfl, .inr hs]
  · obtain rfl := writer_of_encCode h
    exact .inl rfl

/-- While up with a reply that fits, ACK of a presented frame is enabled with the encoder idle only (42_host.md R154). -/
theorem State.encPhase_of_ack {s : State} {n : Nat} (hb : s.busyHold (.ack n) = false) (hn : s.lengthOk n = true)
    (hv : s.frameValid = true) (hpos : n ≠ 0) (hu : s.up = true) : s.encPhase = .idle := by
  simpa [State.busyHold, hn, hv, hu, Nat.one_le_iff_ne_zero.2 hpos, State.txBusy] using hb

/-- ACK and TXSTART leave the encoder as it is, or it is idle and they start it (42_host.md R154, R155). -/
theorem start_cases {s : State} {i : Instr} (hi : ∃ n, i = .ack n ∨ i = .txstart n) (hb : s.busyHold i = false) :
    s.EncoderKept (effect s i) ∨ (s.encPhase = .idle ∧ (effect s i).encPhase = .lead) := by
  obtain ⟨n, rfl | rfl⟩ := hi
  · simp only [effect]
    split_ifs with hn hv hpos hu
    iterate 4 exact .inl ⟨rfl, rfl, rfl, rfl, rfl⟩
    exact .inr ⟨State.encPhase_of_ack hb (by simpa using hn) (by simpa using hv) hpos (by simpa using hu), rfl⟩
  · simp only [effect]
    split_ifs with hn hu
    iterate 2 exact .inl ⟨rfl, rfl, rfl, rfl, rfl⟩
    exact .inr ⟨State.encPhase_of_txstart hb (by simpa using hn) (by simpa using hu), rfl⟩

/-- So they start no encode while the encoder is busy (60_exceptions.md R183). -/
theorem encoderKept_of_start {s : State} {i : Instr} (hi : ∃ n, i = .ack n ∨ i = .txstart n)
    (he : s.enabled i = true) (hbusy : s.encPhase ≠ .idle) : s.EncoderKept (effect s i) :=
  (start_cases hi ((s.enabled_iff i).1 he).2.2).resolve_right fun h => hbusy h.1

/-- While the encoder is busy only emissions move it on. -/
theorem encoderKept_of_busy {s : State} {i : Instr} (hi : s.enabled i = true) (hbusy : s.encPhase ≠ .idle)
    (he : encode i ≠ .emit) : s.EncoderKept (effect s i) := by
  by_cases hs : ∃ n, i = .ack n ∨ i = .txstart n
  · exact encoderKept_of_start hs hi hbusy
  · exact encoderKept_of_not_writer (not_or.2 ⟨he, hs⟩)

/-! ## What keeps the frame under encode -/

section
variable {s : State} {i : Instr}

theorem encSrc_kept_of_busy (hi : s.enabled i = true) (hbusy : s.encPhase ≠ .idle) :
    (effect s i).encSrc = s.encSrc := by
  by_contra h
  exact h (encoderKept_of_start (writer_of_encSrc h) hi hbusy).encSrc

theorem encLen_kept_of_busy (hi : s.enabled i = true) (hbusy : s.encPhase ≠ .idle) :
    (effect s i).encLen = s.encLen := by
  by_contra h
  exact h (encoderKept_of_start (writer_of_encLen h) hi hbusy).encLen

/-- WTX faults while the encoder reads `tx_buf` (42_host.md R156). -/
theorem txBuf_kept_of_busy (hbusy : s.encPhase ≠ .idle) (hsrc : s.encSrc = .txbuf) :
    (effect s i).txBuf = s.txBuf := by
  by_contra h
  obtain ⟨k, v, rfl⟩ := writer_of_txBuf h
  have ho : s.txBufOwned = true := by simp [State.txBufOwned, State.txBusy, hbusy, hsrc]
  refine h ?_
  simp [effect, ho, apply_ite State.toBlock, apply_ite Block.txBuf]

/-- During a reply no byte is received, and WRX faults (40_receive.md R100; 42_host.md R158). -/
theorem rxBuf_kept_of_reply (hi : s.enabled i = true) (hp : s.rxPhase = .reply) : (effect s i).rxBuf = s.rxBuf := by
  by_contra h
  have hport (hr : (encode i).agent = .receivePort) : False :=
    ne_reply_of_ready (ready_of_selects ((s.enabled_iff i).1 hi).2.1 hr) hp
  obtain ⟨b, rfl | rfl | rfl⟩ | rfl | rfl | ⟨k, v, rfl⟩ := writer_of_rxBuf h
  iterate 5 exact hport rfl
  refine h ?_
  simp [effect, State.frameValid, hp, apply_ite State.toBlock, apply_ite Block.rxBuf]

/-- The buffer under encode belongs to the encoder: no instruction writes it (20_memory.md R57, R58). -/
theorem State.Inv.sourceBuffer_kept (h : s.Inv) (hi : s.enabled i = true) (hbusy : s.encPhase ≠ .idle) :
    (effect s i).sourceBuffer = s.sourceBuffer := by
  rw [State.sourceBuffer_eq, State.sourceBuffer_eq, encSrc_kept_of_busy hi hbusy]
  cases hsrc : s.encSrc with
  | txbuf => simpa using txBuf_kept_of_busy hbusy hsrc
  | rxbuf => simpa using rxBuf_kept_of_reply hi (h.reply_iff.2 ⟨hbusy, hsrc⟩)

end

/-- A step while the encoder is busy keeps `enc_src`, `enc_len` and the buffer under encode. -/
theorem step_keeps_source {s t : State} (h : s.Inv) (hbusy : s.encPhase ≠ .idle) (hstep : step s = .next t) :
    t.encSrc = s.encSrc ∧ t.encLen = s.encLen ∧ t.sourceBuffer = s.sourceBuffer := by
  obtain ⟨hb, -⟩ | ⟨p, i, hb, hm, hi, rfl⟩ := step_effect hstep
  · exact ⟨by rw [hb], by rw [hb], State.sourceBuffer_congr hb⟩
  · have hp : p.encPhase ≠ .idle := by rwa [hb]
    have hbuf := (h.congr hb hm).sourceBuffer_kept hi hp
    exact ⟨hb ▸ encSrc_kept_of_busy hi hp, hb ▸ encLen_kept_of_busy hi hp,
      hbuf.trans (State.sourceBuffer_congr hb)⟩

/-- Settles O49: the frame is read from the buffer under encode, which no step writes. -/
theorem frameUnderEncodeIsNotDisturbed : Obligations.FrameUnderEncodeIsNotDisturbed := by
  intro s t h hbusy hstep
  obtain ⟨hsrc, hlen, hbuf⟩ := step_keeps_source h hbusy hstep
  refine ⟨hsrc, hlen, State.sourceFrame_congr hbuf hlen, fun k _ => ⟨?_, ?_⟩⟩
  · rw [State.src_eq, hbuf, State.src_eq]
  · rw [State.src_eq, State.sourceBuffer_eq, apply_ite (Memory.read · k)]

/-! ## The order of the emissions over every interleaving -/

/-- Only emissions output an emitted byte. -/
theorem emission_of_output {s : State} {i : Instr} {b : Byte}
    (h : (effect s i).outputs = s.outputs ++ [.emitted b]) : encode i = .emit := by
  cases i with
  | txLead | txTrail | txEsc | txData | txCode => rfl
  | rxEnd | ack n | txstart n | wtx k v | rtx k | wrx k v | rrx k =>
    simp only [effect] at h
    split_ifs at h <;> simp at h
  | _ => simp [effect, apply_ite State.outputs] at h

/-- An encode starts in LEAD. -/
theorem lead_of_start {s : State} {i : Instr} (hi : s.enabled i = true) (hs : s.encPhase = .idle)
    (ht : (effect s i).encPhase ≠ .idle) : (effect s i).encPhase = .lead := by
  obtain ⟨-, hsel, hb⟩ := (s.enabled_iff i).1 hi
  have hport (ha : (encode i).agent = .transmitPort) : False := encPhase_of_selects hsel ha hs
  obtain rfl | rfl | rfl | rfl | hstart := writer_of_encPhase (hs ▸ ht)
  iterate 4 exact (hport rfl).elim
  exact ((start_cases hstart hb).resolve_left fun hk => ht (hk.encPhase.trans hs)).2

/-- As `step_effect`, with the outputs. -/
theorem step_effect_outputs {s t : State} (h : step s = .next t) :
    (t.toBlock = s.toBlock ∧ t.outputs = s.outputs) ∨
      ∃ p i, p.toBlock = s.toBlock ∧ p.maxpkt = s.maxpkt ∧ p.outputs = s.outputs ∧ p.enabled i = true ∧
        t = effect p i := by
  obtain ⟨-, ⟨-, rfl⟩ | ⟨a, rest, -, rfl | ⟨e, i, -, -, hi, hx⟩⟩⟩ := step_cases h
  · exact .inl ⟨rfl, rfl⟩
  · exact .inl ⟨rfl, rfl⟩
  · have hp : (({ s with schedule := rest } : State).take a).enabled i = true := by simpa using hi
    rw [exec_of_enabled hp] at hx
    cases hx
    exact .inr ⟨_, i, by simp, by simp, by simp, hp, rfl⟩

/-- A byte emitted is the first of those that remain (41_transmit.md R137). -/
theorem State.Inv.remaining_of_emitted {s : State} {i : Instr} {b : Byte} (h : s.Inv) (hi : s.enabled i = true)
    (hout : (effect s i).outputs = s.outputs ++ [.emitted b]) : s.remaining = b :: (effect s i).remaining := by
  obtain ⟨b', hrem, hout', -, -⟩ := h.encInv.emission ((s.enabled_iff i).1 hi).2.1 (emission_of_output hout)
  obtain rfl : b = b' := by simpa [hout] using hout'
  exact hrem

/-- What emits nothing while the encoder is busy is no emission, and leaves what remains. -/
theorem State.Inv.remaining_of_silent {s : State} {i : Instr} (h : s.Inv) (hi : s.enabled i = true)
    (hbusy : s.encPhase ≠ .idle) (hout : ∀ b, (effect s i).outputs ≠ s.outputs ++ [.emitted b]) :
    (effect s i).remaining = s.remaining := by
  have he : encode i ≠ .emit := fun he => by
    obtain ⟨b, hb, -⟩ := emission_outputs (s := s) he
    exact hout b hb
  exact (encoderKept_of_busy hi hbusy he).remaining (h.sourceBuffer_kept hi hbusy)

/-- Settles O50: a step leaves the block alone, or it is an enabled instruction's effect, from the same block: an
emission, a silent instruction or the start of an encode. -/
theorem encoderEmitsWhatRemains : Obligations.EncoderEmitsWhatRemains := by
  intro s t h hstep
  obtain ⟨hb, ho⟩ | ⟨p, i, hb, hm, ho, hi, rfl⟩ := step_effect_outputs hstep
  · exact ⟨fun b hout => by simp [ho] at hout, fun _ _ => State.remaining_congr hb,
      fun hs ht => absurd (by rw [hb, hs]) ht⟩
  · have hp : p.Inv := h.congr hb hm
    rw [← State.remaining_congr hb, ← hb, ← ho]
    exact ⟨fun b => hp.remaining_of_emitted hi, hp.remaining_of_silent hi,
      fun hs ht => State.remaining_lead (lead_of_start hi hs ht)⟩

/-! ## The whole wire form, from LEAD -/

/-- As many EMITs as a valid trace has, as many bytes fewer remain (41_transmit.md R137). -/
theorem runTrace_emits_remaining {k : Nat} {s u : State} (h : s.EncInv) (hrun : runTrace (emits k) s = some u) :
    s.remaining.length = k + u.remaining.length := by
  induction k generalizing s with
  | zero => cases hrun; simp
  | succ k ih =>
    obtain ⟨i, hd, hi, hrest⟩ := runTrace_cons_cases hrun
    obtain ⟨hsel, henc⟩ := decode_sound hd
    obtain ⟨b, hrem, -, hinv, -⟩ := h.emission hsel henc
    rw [hrem, List.length_cons, ih hinv hrest]
    omega

/-- Settles O51: from LEAD the whole wire form remains, DRAIN emits it, and before its end bytes remain. -/
theorem emittedSequenceIsTheWireForm : Obligations.EmittedSequenceIsTheWireForm := by
  intro s h hl hp
  have hrem := State.remaining_lead hp
  refine ⟨?_, fun k u hk hrun hidle => ?_, ?_⟩
  · rw [← hrem]
    exact runTrace_drain hl h.encInv
  · have hlen := runTrace_emits_remaining h.encInv hrun
    rw [State.remaining_idle hidle, hrem, List.length_nil] at hlen
    omega
  · obtain ⟨-, -, hle, -⟩ := wireLength s.sourceFrame
    have hcap := h.encLen_le
    rw [State.sourceFrame_length] at hle
    omega

/-! ## The interface and the encoder -/

/-- The emission classes do not read `UP`. -/
theorem effect_withUp {s : State} {i : Instr} (he : encode i = .emit) (u : Bool) :
    effect { s with up := u } i = { effect s i with up := u } := by
  cases i <;> cases he <;> rfl

theorem State.enabled_withUp (s : State) {i : Instr} (he : encode i = .emit) (u : Bool) :
    ({ s with up := u } : State).enabled i = s.enabled i := by
  cases i <;> cases he <;> rfl

/-- EMIT's class, whether it is enabled and its effect are the same whatever `UP` is (41_transmit.md R140). -/
theorem deliver_emit_withUp {s t : State} (u : Bool) (h : deliver .emit s = .next t) :
    deliver .emit { s with up := u } = .next { t with up := u } := by
  have hdec : decode ({ s with up := u } : State).context .emit = decode s.context .emit := rfl
  cases hd : decode s.context .emit with
  | error r =>
    obtain rfl : s = t := by simpa [deliver, hd] using h
    simp [deliver, hdec, hd]
  | ok i =>
    have henc : encode i = .emit := (decode_sound hd).2
    rw [deliver_of_decode (hdec.trans hd)]
    rw [deliver_of_decode hd] at h
    obtain ⟨he, rfl⟩ | ⟨he, rfl⟩ := exec_cases h
    · rw [exec_of_enabled ((State.enabled_withUp _ henc u).trans he), effect_withUp henc]
    · exact exec_of_held ((State.enabled_withUp _ henc u).trans he)

/-- IFUP and IFDOWN write no field of the encoder and neither buffer (42_host.md R152, R153). -/
theorem encoderKept_of_interface {s : State} {i : Instr} (hi : i = .ifup ∨ i = .ifdown) :
    s.EncoderKept (effect s i) ∧ (effect s i).remaining = s.remaining := by
  have hkept : s.EncoderKept (effect s i) := by
    refine encoderKept_of_not_writer ?_
    rcases hi with rfl | rfl <;> simp [encode]
  have hbuf : (effect s i).sourceBuffer = s.sourceBuffer := by
    rw [State.sourceBuffer_eq, State.sourceBuffer_eq, hkept.encSrc]
    rcases hi with rfl | rfl <;> simp [effect, apply_ite State.toBlock, apply_ite Block.rxBuf, apply_ite Block.txBuf]
  exact ⟨hkept, hkept.remaining hbuf⟩

/-- Settles O52: `UP` decides neither EMIT's class nor its effect, and IFUP and IFDOWN write nothing an encode is made
of. -/
theorem upHasNoEffectOnAnEncode : Obligations.UpHasNoEffectOnAnEncode := by
  refine ⟨fun s t u => deliver_emit_withUp u, fun s t i hi h => ?_⟩
  obtain ⟨-, rfl⟩ | ⟨-, rfl⟩ := exec_cases h
  · obtain ⟨hkept, hrem⟩ := encoderKept_of_interface (s := s) hi
    exact ⟨hkept.encPhase, hkept.encSrc, hkept.encLen, hkept.encIdx, hkept.encCode, hrem⟩
  · simp

end Sys2Proof.Machine
end

section
/-! Where END and ESC stand in the wire form (41_transmit.md R139). -/

namespace Sys2Proof.Machine

/-- No piece of the wire form has an END in it (30_encoding.md R72). -/
theorem end_not_mem_stuff (b : Byte) : END ∉ stuff b := by
  by_cases h1 : b = END
  · subst h1; decide
  by_cases h2 : b = ESC
  · subst h2; decide
  simpa [stuff_other h1 h2] using Ne.symm h1

theorem count_end_flatMap_stuff (x : List Byte) : (x.flatMap stuff).count END = 0 := by
  rw [List.count_eq_zero, List.mem_flatMap]
  rintro ⟨b, -, hb⟩
  exact end_not_mem_stuff b hb

/-- Every ESC in the list is followed by ESC_END or ESC_ESC. -/
def EscPaired (l : List Byte) : Prop :=
  ∀ k, l[k]? = some ESC → l[k + 1]? = some ESC_END ∨ l[k + 1]? = some ESC_ESC

theorem EscPaired.of_not_mem {l : List Byte} (h : ESC ∉ l) : EscPaired l :=
  fun _ hk => absurd (List.mem_of_getElem? hk) h

/-- A pair of ESC and its code. -/
theorem EscPaired.pair {c : Byte} (h : c = ESC_END ∨ c = ESC_ESC) : EscPaired [ESC, c] := by
  intro k hk
  match k with
  | 0 => simpa using h
  | 1 => rcases h with rfl | rfl <;> exact absurd hk (by decide)

theorem EscPaired.append {l m : List Byte} (hl : EscPaired l) (hm : EscPaired m) : EscPaired (l ++ m) := by
  intro k hk
  rcases Nat.lt_or_ge k l.length with h | h
  · rw [List.getElem?_append_left h] at hk
    have hnext := hl k hk
    have h' : k + 1 < l.length := by
      by_contra hge
      simp [List.getElem?_eq_none (Nat.not_lt.1 hge)] at hnext
    rwa [List.getElem?_append_left h']
  · rw [List.getElem?_append_right h] at hk
    rw [List.getElem?_append_right (Nat.le_succ_of_le h), Nat.succ_sub h]
    exact hm _ hk

theorem escPaired_stuff (b : Byte) : EscPaired (stuff b) := by
  by_cases h1 : b = END
  · subst h1; exact .pair (.inl rfl)
  by_cases h2 : b = ESC
  · subst h2; exact .pair (.inr rfl)
  rw [stuff_other h1 h2]
  exact .of_not_mem (by simpa using Ne.symm h2)

theorem escPaired_flatMap_stuff (x : List Byte) : EscPaired (x.flatMap stuff) := by
  induction x with
  | nil => exact .of_not_mem (by simp)
  | cons b x ih => exact (escPaired_stuff b).append ih

theorem escPaired_wireEncode (x : List Byte) : EscPaired (wireEncode x) := by
  have hend : EscPaired [END] := .of_not_mem (by decide)
  exact (hend.append (escPaired_flatMap_stuff x)).append hend

/-- Settles O48: the pieces of the frame bytes have no END, and each ESC in them opens a pair. -/
theorem wireOutputGuarantee : Obligations.WireOutputGuarantee := by
  intro x
  refine ⟨?_, rfl, List.getLast?_concat, escPaired_wireEncode x⟩
  simp only [wireEncode, List.count_append, count_end_flatMap_stuff, List.count_singleton_self]

end Sys2Proof.Machine
end

section
/-! The host commands one by one (42_host.md R152 to R160): each takes effect but for a busy hold, and its checks, in the
order of 60_exceptions.md R190, decide what it comes to. -/

namespace Sys2Proof.Machine

/-! ## The checks -/

@[simp] theorem State.indexOk_iff (s : State) (i : Nat) : s.indexOk i = true ↔ i < s.cap := decide_eq_true_iff

@[simp] theorem State.indexOk_eq_false_iff (s : State) (i : Nat) : s.indexOk i = false ↔ s.cap ≤ i := by
  simp [State.indexOk]

@[simp] theorem State.lengthOk_iff (s : State) (n : Nat) : s.lengthOk n = true ↔ n ≤ s.cap := decide_eq_true_iff

@[simp] theorem State.lengthOk_eq_false_iff (s : State) (n : Nat) : s.lengthOk n = false ↔ s.cap < n := by
  simp [State.lengthOk]

@[simp] theorem State.frameValid_iff (s : State) : s.frameValid = true ↔ s.rxPhase = .handoff := beq_iff_eq

@[simp] theorem State.frameValid_eq_false_iff (s : State) : s.frameValid = false ↔ s.rxPhase ≠ .handoff :=
  beq_eq_false_iff_ne

@[simp] theorem State.txBusy_iff (s : State) : s.txBusy = true ↔ s.encPhase ≠ .idle := bne_iff_ne

theorem State.txBufOwned_iff (s : State) : s.txBufOwned = true ↔ s.encPhase ≠ .idle ∧ s.encSrc = .txbuf := by
  simp [State.txBufOwned]

/-- The phases that take no byte (10_state.md R31). -/
theorem rxPhase_ready_eq_false_iff {p : RxPhase} : p.ready = false ↔ p = .handoff ∨ p = .reply ∨ p = .failed := by
  cases p <;> decide

/-! ## Where a command is enabled -/

/-- A command's row depends on no state (30_encoding.md R80). -/
theorem selects_of_command {i : Instr} (hi : (encode i).agent = .host) (c : DecodeContext) : selects c i = true := by
  cases i <;> cases hi <;> rfl

/-- A command with no busy hold takes effect (42_host.md R150). -/
theorem exec_of_command {s : State} {i : Instr} (hl : s.live = true) (hi : (encode i).agent = .host)
    (hb : s.busyHold i = false) : exec i s = .next (effect s i) :=
  exec_of_enabled ((s.enabled_iff i).2 ⟨hl, selects_of_command hi _, hb⟩)

/-- A command in its busy hold is not enabled, and changes nothing (60_exceptions.md R183). -/
theorem held_of_busyHold {s : State} {i : Instr} (hi : (encode i).agent = .host) (hb : s.busyHold i = true) :
    s.accepts (encode i) = false ∧ exec i s = .next s := by
  have hheld : s.enabled i = false := by simp [State.enabled, hb]
  have hd : decode s.context (encode i) = .ok i := decode_encode i _ (selects_of_command hi _)
  exact ⟨by simp [State.accepts, hd, hheld], exec_of_held hheld⟩

/-- The condition on which ACK holds (42_host.md R154). -/
theorem State.busyHold_ack_iff (s : State) (n : Nat) : s.busyHold (.ack n) = true ↔
    1 ≤ n ∧ n ≤ s.cap ∧ s.rxPhase = .handoff ∧ s.up = true ∧ s.encPhase ≠ .idle := by
  simp [State.busyHold, and_assoc]

/-- The condition on which TXSTART holds (42_host.md R155). -/
theorem State.busyHold_txstart_iff (s : State) (n : Nat) : s.busyHold (.txstart n) = true ↔
    n ≤ s.cap ∧ s.up = true ∧ s.encPhase ≠ .idle := by
  simp [State.busyHold, and_assoc]

/-! ## The interface -/

/-- Settles O18: IFUP looks at UP, then at whether the phase takes bytes. -/
theorem ifupBringsTheInterfaceUp : Obligations.IfupBringsTheInterfaceUp := by
  intro s hl
  have hx : exec .ifup s = .next (effect s .ifup) := exec_of_command hl rfl rfl
  refine ⟨fun hu => ?_, fun hu hp => ?_, fun hu hp => ?_⟩
  · rw [hx, effect, if_pos hu]; rfl
  · have hready : s.rxReady = true := rxPhase_ready_iff.2 hp
    rw [hx, effect, if_neg (by simp [hu]), if_pos hready]; rfl
  · have hready : s.rxReady = false := rxPhase_ready_eq_false_iff.2 hp
    rw [hx, effect, if_neg (by simp [hu]), if_neg (by simp [hready])]; rfl

/-- Settles O19: IFDOWN looks at no field. -/
theorem ifdownTakesTheInterfaceDown : Obligations.IfdownTakesTheInterfaceDown := by
  intro s hl
  exact exec_of_command hl rfl rfl

/-! ## Handoff and transmission -/

/-- Settles O20: but for the hold, the length, the phase, a reply or none, and UP are looked at in that order. -/
theorem ackReleasesTheFrame : Obligations.AckReleasesTheFrame := by
  intro s n hl
  have hx (hb : ¬ (1 ≤ n ∧ n ≤ s.cap ∧ s.rxPhase = .handoff ∧ s.up = true ∧ s.encPhase ≠ .idle)) :
      exec (.ack n) s = .next (effect s (.ack n)) :=
    exec_of_command hl rfl (Bool.eq_false_iff.2 ((s.busyHold_ack_iff n).not.2 hb))
  refine ⟨fun hn => ?_, fun hn hp => ?_, fun hn hp => ?_, fun hpos hn hp hu => ?_, fun hpos hn hp hu he => ?_,
    fun hpos hn hp hu he => held_of_busyHold rfl ((s.busyHold_ack_iff n).2 ⟨hpos, hn, hp, hu, he⟩)⟩
  · rw [hx (by omega), effect, if_pos (by simp [hn])]; rfl
  · rw [hx (by simp [hp]), effect, if_neg (by simp [hn]), if_pos (by simp [hp])]; rfl
  · rw [hx (by omega), effect, if_neg (by simp [hn]), if_neg (by simp [hp]), if_pos hn]; rfl
  · rw [hx (by simp [hu]), effect, if_neg (by simp [hn]), if_neg (by simp [hp]), if_neg (by omega),
      if_pos (by simp [hu])]; rfl
  · rw [hx (by simp [he]), effect, if_neg (by simp [hn]), if_neg (by simp [hp]), if_neg (by omega),
      if_neg (by simp [hu])]; rfl

/-- Settles O21: but for the hold, TXSTART looks at the length, then at UP. -/
theorem txstartStartsTheEncoder : Obligations.TxstartStartsTheEncoder := by
  intro s n hl
  have hx (hb : ¬ (n ≤ s.cap ∧ s.up = true ∧ s.encPhase ≠ .idle)) :
      exec (.txstart n) s = .next (effect s (.txstart n)) :=
    exec_of_command hl rfl (Bool.eq_false_iff.2 ((s.busyHold_txstart_iff n).not.2 hb))
  refine ⟨fun hn => ?_, fun hn hu => ?_, fun hn hu he => ?_,
    fun hn hu he => held_of_busyHold rfl ((s.busyHold_txstart_iff n).2 ⟨hn, hu, he⟩)⟩
  · rw [hx (by omega), effect, if_pos (by simp [hn])]; rfl
  · rw [hx (by simp [hu]), effect, if_neg (by simp [hn]), if_pos (by simp [hu])]; rfl
  · rw [hx (by simp [he]), effect, if_neg (by simp [hn]), if_neg (by simp [hu])]; rfl

/-! ## The buffers -/

/-- Settles O22: WTX looks at the index, then at who owns `tx_buf`. -/
theorem wtxWritesTheTransmitBuffer : Obligations.WtxWritesTheTransmitBuffer := by
  intro s i v hl
  have hx : exec (.wtx i v) s = .next (effect s (.wtx i v)) := exec_of_command hl rfl rfl
  refine ⟨fun hi => ?_, fun hi he hsrc => ?_, fun hi ho => ?_⟩
  · rw [hx, effect, if_pos (by simp [hi])]; rfl
  · rw [hx, effect, if_neg (by simp [hi]), if_pos (s.txBufOwned_iff.2 ⟨he, hsrc⟩)]; rfl
  · rw [hx, effect, if_neg (by simp [hi]), if_neg (by simp [s.txBufOwned_eq_false_iff.2 ho])]; rfl

/-- Settles O23: RTX looks at the index alone. -/
theorem rtxReadsTheTransmitBuffer : Obligations.RtxReadsTheTransmitBuffer := by
  intro s i hl
  have hx : exec (.rtx i) s = .next (effect s (.rtx i)) := exec_of_command hl rfl rfl
  refine ⟨fun hi => ?_, fun hi => ?_⟩
  · rw [hx, effect, if_pos (by simp [hi])]; rfl
  · rw [hx, effect, if_neg (by simp [hi])]; rfl

/-- Settles O24: WRX looks at the index, then at the phase, and not at `rx_len`. -/
theorem wrxWritesTheReceiveBuffer : Obligations.WrxWritesTheReceiveBuffer := by
  intro s i v hl
  have hx : exec (.wrx i v) s = .next (effect s (.wrx i v)) := exec_of_command hl rfl rfl
  refine ⟨fun hi => ?_, fun hi hp => ?_, fun hi hp => ?_⟩
  · rw [hx, effect, if_pos (by simp [hi])]; rfl
  · rw [hx, effect, if_neg (by simp [hi]), if_pos (by simp [hp])]; rfl
  · rw [hx, effect, if_neg (by simp [hi]), if_neg (by simp [hp])]; rfl

/-- Settles O25: RRX looks at the index, then at the phase, and not at `rx_len`. -/
theorem rrxReadsTheReceiveBuffer : Obligations.RrxReadsTheReceiveBuffer := by
  intro s i hl
  have hx : exec (.rrx i) s = .next (effect s (.rrx i)) := exec_of_command hl rfl rfl
  refine ⟨fun hi => ?_, fun hi hp => ?_, fun hi hp => ?_⟩
  · rw [hx, effect, if_pos (by simp [hi])]; rfl
  · rw [hx, effect, if_neg (by simp [hi]), if_pos (by simp [hp])]; rfl
  · rw [hx, effect, if_neg (by simp [hi]), if_neg (by simp [hp])]; rfl

/-! ## The STATUS word, field by field (10_state.md R34) -/

section
variable (s : State)

/-- The layout of SW: no code reaches into the next field. -/
theorem getLsbD_statusWord {k : Nat} (hk : k < 16) : s.statusWord.getLsbD k =
    if k < 1 then s.up
    else if k < 4 then (rxPhaseCode s.rxPhase).getLsbD (k - 1)
    else if k < 6 then (encPhaseCode s.encPhase).getLsbD (k - 4)
    else (encSrcCode s.encSrc).getLsbD (k - 6) := by
  have hrx (h : 4 ≤ k) : (rxPhaseCode s.rxPhase).getLsbD (k - 1) = false := BitVec.getLsbD_of_ge _ _ (by omega)
  have henc (h : 6 ≤ k) : (encPhaseCode s.encPhase).getLsbD (k - 4) = false := BitVec.getLsbD_of_ge _ _ (by omega)
  simp only [State.statusWord, BitVec.getLsbD_or, BitVec.getLsbD_shiftLeft, BitVec.getLsbD_setWidth,
    BitVec.getLsbD_ofBool]
  grind

theorem statusWord_up : s.statusWord.getLsbD 0 = s.up := getLsbD_statusWord s (by omega)

theorem statusWord_rxPhase : s.statusWord.extractLsb' 1 3 = rxPhaseCode s.rxPhase := by
  refine BitVec.eq_of_getLsbD_eq fun k hk => ?_
  rw [BitVec.getLsbD_extractLsb', getLsbD_statusWord s (by omega), if_neg (by omega), if_pos (by omega)]
  simp [hk]

theorem statusWord_encPhase : s.statusWord.extractLsb' 4 2 = encPhaseCode s.encPhase := by
  refine BitVec.eq_of_getLsbD_eq fun k hk => ?_
  rw [BitVec.getLsbD_extractLsb', getLsbD_statusWord s (by omega), if_neg (by omega), if_neg (by omega),
    if_pos (by omega)]
  simp [hk]

theorem statusWord_encSrc : s.statusWord.getLsbD 6 = (encSrcCode s.encSrc).getLsbD 0 :=
  getLsbD_statusWord s (by omega)

theorem statusWord_reserved : s.statusWord.extractLsb' 7 9 = 0#9 := by
  refine BitVec.eq_of_getLsbD_eq fun k hk => ?_
  rw [BitVec.getLsbD_extractLsb', getLsbD_statusWord s (by omega), if_neg (by omega), if_neg (by omega),
    if_neg (by omega), BitVec.getLsbD_of_ge _ _ (by omega)]
  simp

end

theorem statusWord_resetWith (m : Nat) : (State.resetWith m).statusWord = 0x0000#16 := by
  simp only [State.statusWord, State.resetWith_toBlock, Block.reset]
  decide

/-- Settles O26: STATUS looks at no field before it responds, and the word it responds holds each code in its field. -/
theorem statusRespondsTheStatusWord : Obligations.StatusRespondsTheStatusWord := by
  have hx {s : State} (hl : s.live = true) : exec .status s = .next (s.respond s.statusRecord) :=
    exec_of_command hl rfl rfl
  refine ⟨fun s hl => ⟨s.statusWord, hx hl, statusWord_up s, statusWord_rxPhase s, statusWord_encPhase s, ?_,
    statusWord_reserved s⟩, fun m => ?_⟩
  · rw [statusWord_encSrc]
    cases s.encSrc <;> rfl
  · rw [hx rfl, State.statusRecord, statusWord_resetWith]; rfl

end Sys2Proof.Machine
end

section
/-! The run marks: a marked run is over, and a reserved code is what refuses one (60_exceptions.md R181, R182). -/

namespace Sys2Proof.Machine

/-- From a marked state no event is enabled (60_exceptions.md R181, R182). -/
theorem accepts_of_marked {s : State} (h : s.live = false) (e : Event) : s.accepts e = false := by
  unfold State.accepts
  split
  · simp [State.enabled, h]
  · rfl

/-- A state with the refused mark is marked. -/
theorem live_of_refused {s : State} (h : s.refused = true) : s.live = false := by simp [State.live, h]

theorem step_of_fault {s : State} {f : Fault} (h : s.fault = some f) : step s = .fault f := by simp [step, h]

theorem step_of_refused {s : State} (hf : s.fault = none) (hr : s.refused = true) :
    step s = .refused .reservedCommand := by simp [step, hf, hr]

/-- Settles O34: the step looks at the marks first, and either mark leaves nothing enabled. -/
theorem markedRunIsOver : Obligations.MarkedRunIsOver := fun _ =>
  ⟨fun _ => step_of_fault, step_of_refused, fun hm => ⟨accepts_of_marked hm, exec_of_marked hm⟩⟩

/-- Settles O27: each reserved code is a command with no hold, whose effect is the mark, and a marked state keeps its
marks. -/
theorem reservedCodesRefuseTheRun : Obligations.ReservedCodesRefuseTheRun := by
  intro s hl i hi
  refine ⟨?_, fun t ht => ⟨accepts_of_marked (live_of_refused ht), fun j u hx => ?_⟩⟩
  · rcases hi with rfl | rfl | rfl | rfl | rfl | rfl | rfl <;> exact exec_of_command hl rfl rfl
  · obtain ⟨-, hinstr, -⟩ := runMarksAreNeverCleared
    exact (hinstr j t u hx).2 ht

end Sys2Proof.Machine
end

section
/-! The fault table (60_exceptions.md R181, with the order of the checks of R190), and the conforming host (R205). -/

namespace Sys2Proof.Machine

/-- The fault table: which command raises which fault, and on what condition, the checks before it passed
(60_exceptions.md R181, R190). -/
inductive State.Faults (s : State) : Instr → Fault → Prop
  | ackLength {n : Nat} (hn : s.cap < n) : s.Faults (.ack n) (.lenRange .ack n)
  | ackNoFrame {n : Nat} (hn : n ≤ s.cap) (hp : s.rxPhase ≠ .handoff) : s.Faults (.ack n) (.ackNoFrame .ack)
  | txstartLength {n : Nat} (hn : s.cap < n) : s.Faults (.txstart n) (.lenRange .txstart n)
  | wtxIndex {k : Nat} {v : Byte} (hk : s.cap ≤ k) : s.Faults (.wtx k v) (.indexRange .wtx k)
  | wtxOwner {k : Nat} {v : Byte} (hk : k < s.cap) (he : s.encPhase ≠ .idle) (hsrc : s.encSrc = .txbuf) :
    s.Faults (.wtx k v) (.txbufOwner .wtx s.encPhase)
  | rtxIndex {k : Nat} (hk : s.cap ≤ k) : s.Faults (.rtx k) (.indexRange .rtx k)
  | wrxIndex {k : Nat} {v : Byte} (hk : s.cap ≤ k) : s.Faults (.wrx k v) (.indexRange .wrx k)
  | wrxOwner {k : Nat} {v : Byte} (hk : k < s.cap) (hp : s.rxPhase ≠ .handoff) :
    s.Faults (.wrx k v) (.rxbufOwner .wrx s.rxPhase)
  | rrxIndex {k : Nat} (hk : s.cap ≤ k) : s.Faults (.rrx k) (.indexRange .rrx k)
  | rrxOwner {k : Nat} (hk : k < s.cap) (hp : s.rxPhase ≠ .handoff) :
    s.Faults (.rrx k) (.rxbufOwner .rrx s.rxPhase)

/-- An instruction leaves the fault mark alone, or raises a fault of the table and does nothing else. -/
theorem effect_fault_cases (s : State) (i : Instr) :
    (effect s i).fault = s.fault ∨ ∃ f, s.Faults i f ∧ effect s i = s.raise f := by
  cases i with
  | ack n =>
    simp only [effect]
    split_ifs with hn hp
    · exact .inr ⟨_, .ackLength (by simpa using hn), rfl⟩
    · exact .inr ⟨_, .ackNoFrame (by simpa using hn) (by simpa using hp), rfl⟩
    all_goals exact .inl rfl
  | txstart n =>
    simp only [effect]
    split_ifs with hn
    · exact .inr ⟨_, .txstartLength (by simpa using hn), rfl⟩
    all_goals exact .inl rfl
  | wtx k v =>
    simp only [effect]
    split_ifs with hk ho
    · exact .inr ⟨_, .wtxIndex (by simpa using hk), rfl⟩
    · obtain ⟨he, hsrc⟩ := s.txBufOwned_iff.1 ho
      exact .inr ⟨_, .wtxOwner (by simpa using hk) he hsrc, rfl⟩
    · exact .inl rfl
  | rtx k =>
    simp only [effect]
    split_ifs with hk
    · exact .inr ⟨_, .rtxIndex (by simpa using hk), rfl⟩
    · exact .inl rfl
  | wrx k v =>
    simp only [effect]
    split_ifs with hk hp
    · exact .inr ⟨_, .wrxIndex (by simpa using hk), rfl⟩
    · exact .inr ⟨_, .wrxOwner (by simpa using hk) (by simpa using hp), rfl⟩
    · exact .inl rfl
  | rrx k =>
    simp only [effect]
    split_ifs with hk hp
    · exact .inr ⟨_, .rrxIndex (by simpa using hk), rfl⟩
    · exact .inr ⟨_, .rrxOwner (by simpa using hk) (by simpa using hp), rfl⟩
    · exact .inl rfl
  | _ => exact .inl (by simp [effect, apply_ite State.toBlock, apply_ite Block.fault])

/-- Settles O35: from an unmarked state a recorded fault was raised by a row of the table, and each row is its clause. -/
theorem faultsAreThoseOfTheTable : Obligations.FaultsAreThoseOfTheTable := by
  intro i s t f hl hx ht
  obtain ⟨hnone, -⟩ := s.live_iff.1 hl
  have hnot : s.fault ≠ some f := by simp [hnone]
  obtain ⟨-, rfl⟩ | ⟨-, rfl⟩ := exec_cases hx
  · obtain hkept | ⟨g, hg, heq⟩ := effect_fault_cases s i
    · exact absurd (hkept ▸ ht) hnot
    obtain rfl : g = f := by simpa [heq] using ht
    refine ⟨heq, ?_⟩
    cases hg with
    | ackNoFrame hn hp => exact .inl ⟨rfl, rfl, hp, _, hn, rfl⟩
    | ackLength hn => exact .inr (.inl ⟨rfl, _, hn, .inl ⟨rfl, rfl⟩⟩)
    | txstartLength hn => exact .inr (.inl ⟨rfl, _, hn, .inr ⟨rfl, rfl⟩⟩)
    | wtxIndex hk => exact .inr (.inr (.inl ⟨rfl, _, hk, .inl ⟨_, rfl, rfl⟩⟩))
    | rtxIndex hk => exact .inr (.inr (.inl ⟨rfl, _, hk, .inr (.inl ⟨rfl, rfl⟩)⟩))
    | wrxIndex hk => exact .inr (.inr (.inl ⟨rfl, _, hk, .inr (.inr (.inl ⟨_, rfl, rfl⟩))⟩))
    | rrxIndex hk => exact .inr (.inr (.inl ⟨rfl, _, hk, .inr (.inr (.inr ⟨rfl, rfl⟩))⟩))
    | wrxOwner hk hp => exact .inr (.inr (.inr (.inl ⟨rfl, hp, _, hk, .inl ⟨_, rfl, rfl⟩⟩)))
    | rrxOwner hk hp => exact .inr (.inr (.inr (.inl ⟨rfl, hp, _, hk, .inr ⟨rfl, rfl⟩⟩)))
    | wtxOwner hk he hsrc => exact .inr (.inr (.inr (.inr ⟨rfl, he, hsrc, rfl, _, _, hk, rfl⟩)))
  · exact absurd ht hnot

/-! ## The conforming host -/

/-- The contract rules out every condition of the fault table, row by row (60_exceptions.md R205). -/
theorem not_conforming_of_faults {s : State} {i : Instr} {f : Fault} (h : s.Faults i f) : s.conforming i = false := by
  cases h with
  | ackLength hn | txstartLength hn => simp [State.conforming, hn]
  | wtxIndex hk | rtxIndex hk | wrxIndex hk | rrxIndex hk => simp [State.conforming, hk]
  | ackNoFrame _ hp | wrxOwner _ hp | rrxOwner _ hp => simp [State.conforming, State.frameValid, hp]
  | wtxOwner _ he => simp [State.conforming, State.txBusy, he]

/-- What the contract allows is no reserved code, and nothing else sets the refused mark (60_exceptions.md R182, R205). -/
theorem effect_refused_of_conforming {s : State} {i : Instr} (h : s.conforming i = true) :
    (effect s i).refused = s.refused := by
  cases i with
  | reserved0 | reservedA | reservedB | reservedC | reservedD | reservedE | reservedF => cases h
  | _ => simp [effect, apply_ite State.toBlock, apply_ite Block.refused]

/-- Settles O37: an instruction the contract allows sets neither mark. -/
theorem conformingHostNeverFaults : Obligations.ConformingHostNeverFaults := by
  intro i s t hl hc hx
  obtain ⟨-, rfl⟩ | ⟨-, rfl⟩ := exec_cases hx
  · have hfault : (effect s i).fault = s.fault :=
      (effect_fault_cases s i).resolve_right fun ⟨f, hf, _⟩ => by simp [not_conforming_of_faults hf] at hc
    rwa [State.live, hfault, effect_refused_of_conforming hc]
  · exact hl

end Sys2Proof.Machine
end

section
/-! The hold table (60_exceptions.md R183), and the stuck receive path (R184). -/

namespace Sys2Proof.Machine

/-- An event that is not enabled holds: it leaves the state as it is (60_exceptions.md R183). -/
theorem deliver_of_held {s : State} {e : Event} (h : s.accepts e = false) : deliver e s = .next s := by
  unfold deliver
  split
  · next i hd =>
    simp only [State.accepts, hd] at h
    exact exec_of_held h
  · rfl

/-- With no run mark set a command holds exactly in its busy hold (42_host.md R150). -/
theorem accepts_command_eq_false_iff {s : State} (hl : s.live = true) (w : CommandWord) :
    s.accepts (.command w) = false ↔ s.busyHold (decodeCommand w) = true := by
  simp [State.accepts, decode, State.enabled, hl, selects_decodeCommand]

/-- The only commands with a busy hold are ACK and TXSTART (30_encoding.md R80; 60_exceptions.md R183). -/
theorem op_of_busyHold {s : State} {w : CommandWord} (h : s.busyHold (decodeCommand w) = true) :
    w.op = 0x3#4 ∨ w.op = 0x4#4 := by
  have henc := encode_decodeCommand w
  rw [← operandsOnly_op w]
  cases hi : decodeCommand w with
  | ack n => rw [hi] at henc; exact .inl (congrArg CommandWord.op (Event.command.inj henc)).symm
  | txstart n => rw [hi] at henc; exact .inr (congrArg CommandWord.op (Event.command.inj henc)).symm
  | _ => rw [hi] at h; cases h

theorem decodeCommand_of_ack {w : CommandWord} (h : w.op = 0x3#4) : decodeCommand w = .ack w.n := by
  simp [decodeCommand, h]

theorem decodeCommand_of_txstart {w : CommandWord} (h : w.op = 0x4#4) : decodeCommand w = .txstart w.n := by
  simp [decodeCommand, h]

/-- The condition on which a command word holds (42_host.md R154, R155). -/
theorem busyHold_decodeCommand_iff (s : State) (w : CommandWord) : s.busyHold (decodeCommand w) = true ↔
    s.up = true ∧ s.encPhase ≠ .idle ∧ w.n ≤ s.cap ∧
      ((w.op = 0x3#4 ∧ 1 ≤ w.n ∧ s.rxPhase = .handoff) ∨ w.op = 0x4#4) := by
  by_cases hack : w.op = 0x3#4
  · have htx : w.op ≠ 0x4#4 := by simp [hack]
    rw [decodeCommand_of_ack hack, State.busyHold_ack_iff]
    tauto
  by_cases htx : w.op = 0x4#4
  · rw [decodeCommand_of_txstart htx, State.busyHold_txstart_iff]
    tauto
  exact iff_of_false (fun h => (op_of_busyHold h).elim hack htx) (by simp [hack, htx])

/-- With no run mark set a receive-port event holds exactly in the phases that take no byte (40_receive.md R100, R111). -/
theorem accepts_receive_eq_false_iff {s : State} {e : Event} (hl : s.live = true) (he : e.agent = .receivePort) :
    s.accepts e = false ↔ s.rxPhase = .handoff ∨ s.rxPhase = .reply ∨ s.rxPhase = .failed := by
  rw [Bool.eq_false_iff, ne_eq, State.accepts_receive_iff he, ← rxPhase_ready_iff, ← rxPhase_ready_eq_false_iff]
  simp [hl]

/-- Settles O36: each agent's events have their own row of the table. -/
theorem holdsAreThoseOfTheTable : Obligations.HoldsAreThoseOfTheTable := by
  intro s e hl hle
  refine ⟨?_, deliver_of_held⟩
  cases e with
  | rx b => simp [accepts_receive_eq_false_iff (e := .rx b) hl rfl]
  | rxErr => simp [accepts_receive_eq_false_iff (e := .rxErr) hl rfl]
  | emit => simp [Bool.eq_false_iff, State.accepts_emit_iff hle, hl]
  | command w => simp [accepts_command_eq_false_iff hl, busyHold_decodeCommand_iff]

/-! ## The stuck receive path -/

/-- No enabled instruction leaves FAILED: its writers are the receive classes, which want a phase that takes bytes, the
end of a reply, which FAILED rules out (10_state.md R35 item 3), IFUP on the up edge of a phase that takes bytes, and ACK
of a presented frame. -/
theorem State.Inv.failed_kept {s : State} {i : Instr} (h : s.Inv) (hi : s.enabled i = true)
    (hp : s.rxPhase = .failed) : (effect s i).rxPhase = .failed := by
  obtain ⟨-, hsel, -⟩ := (s.enabled_iff i).1 hi
  have hport (ha : (encode i).agent = .receivePort) : False := by
    have hready : s.rxPhase.ready = true := ready_of_selects hsel ha
    simp [hp, RxPhase.ready] at hready
  rw [← hp]
  by_contra hne
  obtain ⟨b, rfl | rfl⟩ | rfl | rfl | rfl | rfl | rfl | rfl | rfl | rfl | ⟨n, rfl⟩ := writer_of_rxPhase hne
  iterate 8 exact hport rfl
  · have hsrc : s.encSrc ≠ .rxbuf := fun hsrc => by
      have hreply := h.reply_iff.2 ⟨encPhase_of_selects hsel rfl, hsrc⟩
      simp [hp] at hreply
    exact hne (by simp [effect, hsrc])
  · exact hne (by simp [effect, State.rxReady, hp, RxPhase.ready, apply_ite State.toBlock, apply_ite Block.rxPhase])
  · exact hne (by simp [effect, State.frameValid, hp, apply_ite State.toBlock, apply_ite Block.rxPhase])

/-- Settles O45: a step leaves the block alone, or is the effect of an enabled instruction, which keeps FAILED. -/
theorem failedIsNeverLeft : Obligations.FailedIsNeverLeft := by
  intro s t h hstep hp
  obtain ⟨hb, -⟩ | ⟨p, i, hb, hm, hi, rfl⟩ := step_effect hstep
  · rwa [hb]
  · exact (h.congr hb hm).failed_kept hi (by rwa [hb])

end Sys2Proof.Machine
end

section
/-! The Receiver duty: the status, the frame read byte by byte, the reply written in place, and the release
(60_exceptions.md R197, R198). -/

namespace Sys2Proof.Machine

/-! ## The reads -/

/-- STATUS at the head of a trace (42_host.md R160). -/
theorem runTrace_status {s : State} (es : List Event) (hl : s.live = true) :
    runTrace (evStatus :: es) s = runTrace es (s.respond s.statusRecord) :=
  runTrace_cons rfl ((s.enabled_iff .status).2 ⟨hl, rfl, rfl⟩)

/-- The state after reading the bytes `ks` of the receive buffer, each answered with the byte. -/
def State.readBytes (s : State) (ks : List Nat) : State :=
  { s with outputs := s.outputs ++ ks.map fun k => .responded (.byte (s.readByte .rxbuf k)) }

theorem State.readBytes_cons (s : State) (k : Nat) (ks : List Nat) :
    s.readBytes (k :: ks) = (s.respond (.byte (s.readByte .rxbuf k))).readBytes ks := by
  simp [State.readBytes, State.respond]

/-- Reads within the buffer, while a frame is presented. -/
theorem runTrace_rrxs {s : State} {ks : List Nat} (hl : s.live = true) (hp : s.rxPhase = .handoff)
    (hks : ∀ k ∈ ks, k < s.cap) : runTrace (ks.map evRrx) s = some (s.readBytes ks) := by
  induction ks generalizing s with
  | nil => simp [State.readBytes]
  | cons k ks ih =>
    rw [List.map_cons, runTrace_rrx hl (hks k List.mem_cons_self) hp, State.readBytes_cons]
    exact ih hl hp fun j hj => hks j (List.mem_cons_of_mem k hj)

/-- Reading every index of the frame answers exactly the frame (10_state.md R32). -/
theorem State.readBytes_range_outputs (s : State) : (s.readBytes (List.range s.rxLen)).outputs =
    s.outputs ++ s.frame.map fun b => .responded (.byte b) := by
  simp [State.readBytes, State.frame, State.bytes, Function.comp_def]

/-! ## The reply in place -/

@[simp] theorem State.writeBytes_rxPhase (s : State) (sp : Space) (i : Nat) (bs : List Byte) :
    (s.writeBytes sp i bs).rxPhase = s.rxPhase :=
  State.writeBytes_keeps (fun s => s.rxPhase) (by simp) (by simp) s i bs

/-- WRXS within the buffer, while a frame is presented. -/
theorem runTrace_wrxs {s : State} {i : Nat} {bs : List Byte} (hl : s.live = true) (hi : i + bs.length ≤ s.cap)
    (hp : s.rxPhase = .handoff) : runTrace (wrxs i bs) s = some (s.writeBytes .rxbuf i bs) := by
  induction bs generalizing s i with
  | nil => rfl
  | cons b bs ih =>
    rw [List.length_cons] at hi
    rw [wrxs, runTrace_wrx hl (by omega) hp, State.writeBytes]
    exact ih (by simpa using hl) (by simp; omega) (by simpa using hp)

/-- The state before the ACK of the duty: the status and the frame read, the reply written over the frame. -/
def State.dutyDone (s : State) (reply : List Byte) : State :=
  ((s.respond s.statusRecord).readBytes (List.range s.rxLen)).writeBytes .rxbuf 0 reply

/-- The commands before the ACK are valid. -/
theorem runTrace_receiverDuty {s : State} {reply : List Byte} (hl : s.live = true) (hlen : s.rxLen ≤ s.cap)
    (hp : s.rxPhase = .handoff) (hreply : reply.length ≤ s.cap) :
    runTrace (receiverDuty s.rxLen reply) s = runTrace [evAck reply.length] (s.dutyDone reply) := by
  have hreads : runTrace ((List.range s.rxLen).map evRrx) (s.respond s.statusRecord) = some _ :=
    runTrace_rrxs hl hp fun k hk => Nat.lt_of_lt_of_le (List.mem_range.1 hk) hlen
  have hwrites : runTrace (wrxs 0 reply) ((s.respond s.statusRecord).readBytes (List.range s.rxLen)) = some _ :=
    runTrace_wrxs hl (by rwa [Nat.zero_add]) hp
  rw [receiverDuty, List.append_assoc, List.append_assoc, List.singleton_append, runTrace_status _ hl,
    runTrace_append, hreads, Option.bind_some, runTrace_append, hwrites, Option.bind_some]
  rfl

section
variable (s : State) (reply : List Byte)

@[simp] theorem State.dutyDone_live : (s.dutyDone reply).live = s.live := State.writeBytes_live _ _ _ _
@[simp] theorem State.dutyDone_up : (s.dutyDone reply).up = s.up := State.writeBytes_up _ _ _ _
@[simp] theorem State.dutyDone_cap : (s.dutyDone reply).cap = s.cap := State.writeBytes_cap _ _ _ _
@[simp] theorem State.dutyDone_rxPhase : (s.dutyDone reply).rxPhase = s.rxPhase := State.writeBytes_rxPhase _ _ _ _
@[simp] theorem State.dutyDone_encPhase : (s.dutyDone reply).encPhase = s.encPhase :=
  State.writeBytes_encPhase _ _ _ _

theorem State.dutyDone_outputs : (s.dutyDone reply).outputs =
    s.outputs ++ [.responded s.statusRecord] ++ s.frame.map (fun b => .responded (.byte b)) ++
      List.replicate reply.length (.responded .ok) := by
  have hreads := (s.respond s.statusRecord).readBytes_range_outputs
  rw [State.dutyDone, State.writeBytes_outputs]
  exact congrArg (· ++ _) hreads

end

/-- The reply is what the receive buffer starts with. -/
theorem State.dutyDone_bytes {s : State} (h : s.rxBuf.wf) (reply : List Byte) :
    (s.dutyDone reply).bytes .rxbuf reply.length = reply :=
  State.bytes_writeBytes (sp := .rxbuf) h

/-! ## The release -/

section
variable {s : State} {n : Nat}

/-- ACK with the encoder idle is enabled (42_host.md R154). -/
theorem runTrace_ack (hl : s.live = true) (he : s.encPhase = .idle) :
    runTrace [evAck n] s = some (effect s (.ack n)) :=
  runTrace_cons (i := .ack n) rfl ((s.enabled_iff _).2 ⟨hl, rfl, by simp [State.busyHold, State.txBusy, he]⟩)

/-- ACK with no reply, or while down, releases the frame (42_host.md R154). -/
theorem effect_ack_release (hp : s.rxPhase = .handoff) (hn : n ≤ s.cap) (hr : n = 0 ∨ s.up = false) :
    effect s (.ack n) =
      ({ s with rxLen := 0, rxPhase := .start } : State).respond (if n = 0 then .ok else .dropped) := by
  by_cases h0 : n = 0
  · simp [effect, hp, h0]
  · simp [effect, hp, hn, h0, hr.resolve_left h0]

/-- ACK with a reply while up starts the encoder on it (42_host.md R154). -/
theorem effect_ack_reply (hp : s.rxPhase = .handoff) (hn : n ≤ s.cap) (h0 : n ≠ 0) (hu : s.up = true) :
    effect s (.ack n) =
      (({ s with rxLen := 0, rxPhase := .reply } : State).startEncode .rxbuf n).respond .ok := by
  simp [effect, hp, hn, h0, hu]

end

/-- Settles O59: the reads answer the frame, the writes put the reply at the start of the buffer, and ACK releases the
frame or starts the encoder on that buffer. -/
theorem receiverDutyTakesTheFrame : Obligations.ReceiverDutyTakesTheFrame := by
  intro reply s hl hinv hp he hreply
  have hack : runTrace [evAck reply.length] (s.dutyDone reply) = some _ := runTrace_ack (by simpa) (by simpa)
  have hout := s.dutyDone_outputs reply
  have hwritten := State.dutyDone_bytes hinv.rxBuf_wf reply
  refine ⟨_, (runTrace_receiverDuty hl hinv.rxLen_le hp hreply).trans hack, ?_⟩
  by_cases hr : reply = [] ∨ s.up = false
  · have hresponse : (if reply.length = 0 then Response.ok else .dropped) =
        if reply = [] ∨ s.up = true then .ok else .dropped := by
      rcases hr with hr | hr <;> simp [hr]
    rw [effect_ack_release (by simpa) (by simpa) (by simpa using hr), hresponse]
    refine ⟨(s.dutyDone_live reply).trans hl, rfl, by simp [hout], fun _ => ⟨rfl, by simpa⟩, fun hne hu => ?_⟩
    exact (hr.elim hne (by simp [hu])).elim
  · obtain ⟨hne, hu⟩ : reply ≠ [] ∧ s.up = true := by simpa using hr
    rw [effect_ack_reply (by simpa) (by simpa) (by simpa) (by simpa)]
    exact ⟨(s.dutyDone_live reply).trans hl, rfl, by simp [hout, hu], fun h => absurd h hr,
      fun _ _ => ⟨rfl, rfl, hwritten⟩⟩

end Sys2Proof.Machine
end

section
/-! The block after reset (70_reset_and_hazards.md R210). -/

namespace Sys2Proof.Machine

@[simp] theorem State.resetWith_cap (m : Nat) : (State.resetWith m).cap = m + 2 := rfl

/-- Both buffers list nothing after reset, so every byte reads as an unlisted one (10_state.md R22, R25). -/
@[simp] theorem State.resetWith_readByte (m : Nat) (sp : Space) (a : Nat) :
    (State.resetWith m).readByte sp a = 0x00#8 := by
  cases sp with
  | rxbuf => exact Memory.read_nil a
  | txbuf => exact Memory.read_nil a

/-- Settles O38: the fields are those of the reset block whatever MAXPKT is, CAP follows MAXPKT, and the buffers read as
zero. -/
theorem resetValues : Obligations.ResetValues := by
  refine ⟨fun m => ?_, State.reset_eq⟩
  simp only [State.resetWith_toBlock, Block.reset, State.resetWith_cap, State.resetWith_readByte, implies_true, and_self]

end Sys2Proof.Machine
end

section
/-! The sample encodings (30_encoding.md R76, R79, R80). -/

namespace Sys2Proof

/-- Settles O31: each sample's context selects the instruction its row names, and the bits are that instruction's
event, so they decode to it. -/
theorem sampleEncodingsDecode : Obligations.SampleEncodingsDecode :=
  ⟨decode_encode .rxStartEnd _ rfl, decode_encode (.rxStartData 0xDB#8) _ rfl,
    decode_encode .rxEnd _ rfl, decode_encode .rxEsc _ rfl,
    decode_encode .rxEscEnd _ rfl, decode_encode (.rxEscBad 0xC0#8) _ rfl,
    decode_encode (.rxDiscard 0xDD#8) _ rfl,
    decode_encode .txEsc _ rfl, decode_encode .txTrail _ rfl,
    decode_encode (.wrx 3 0x45#8) _ rfl⟩

end Sys2Proof
end
